-- ==== Sys2Proof/Word.lean ====
section
/-! DEFINITION. The word types of the block: command words, responses, output words and most voice fields are 32 bits
wide (`30_encoding.md` R90, `10_state.md` R22), ids 16 bits, volumes and header arguments 8 bits. -/

namespace Sys2Proof

/-- A table-memory byte, a volume, or the header field `a` (R62, R90). -/
abbrev Byte := BitVec 8

/-- The header field `imm`, and a registry id (R24, R25, R90). -/
abbrev Half := BitVec 16

/-- A command word, a response, an output word, or a 32-bit voice field (R90, R98, R99). -/
abbrev Word := BitVec 32

end Sys2Proof
end

