-- ==== Sys2Proof/Syntax.lean ====
section
/-! DEFINITION. The commands of the block: one constructor per row of `opcode_table.json` (`30_encoding.md` R93). The
operands are the fields the decoder extracts (R92); the bits the tables call ignored are not part of a command (R96). -/

namespace Sys2Proof

/-- How a sample voice behaves at its loop bounds (`10_state.md` R25): codes 0 to 3 in this order. -/
inductive LoopMode where
  | off
  | forward
  | pingPong
  | reverse
  deriving DecidableEq, Repr

/-- One command. `v` is the header field `a` read as a voice index; ids are `imm`; volumes, depths and the note count
are `imm[7:0]`; the 32-bit operands are the operand words in arrival order (R92, R93). -/
inductive Instr where
  /-- 0x00 NOP (R290). -/
  | nop
  /-- 0x01 NOTE_ON v, volume, freq (R291). -/
  | noteOn (v : Byte) (volume : Byte) (freq : Word)
  /-- 0x02 NOTE_OFF v (R292). -/
  | noteOff (v : Byte)
  /-- 0x03 SET_FREQ v, freq (R293). -/
  | setFreq (v : Byte) (freq : Word)
  /-- 0x04 SET_VOL v, volume (R294). -/
  | setVol (v : Byte) (volume : Byte)
  /-- 0x05 SET_WAVE v, code (R295); the whole 16-bit code is examined, codes above 4 make it a no-op. -/
  | setWave (v : Byte) (code : Half)
  /-- 0x06 SET_PW v, threshold (R296). -/
  | setPw (v : Byte) (threshold : Word)
  /-- 0x07 SET_ENV v, attack, decay, sustain, release (R297). -/
  | setEnv (v : Byte) (attack decay sustain release : Word)
  /-- 0x08 SET_VIB v, rate, depth (R298). -/
  | setVib (v : Byte) (rate depth : Word)
  /-- 0x09 SET_TREM v, depth, rate (R299). -/
  | setTrem (v : Byte) (depth : Byte) (rate : Word)
  /-- 0x0A SET_WT v, id (R300). -/
  | setWt (v : Byte) (id : Half)
  /-- 0x0B REG_WT depth, id, base, size (R301); any depth byte is accepted by the decoder. -/
  | regWt (depth : Byte) (id : Half) (base size : Word)
  /-- 0x0C BIND_TRK v, addr (R302). -/
  | bindTrk (v : Byte) (addr : Word)
  /-- 0x0D BIND_SMP v, addr (R303). -/
  | bindSmp (v : Byte) (addr : Word)
  /-- 0x0E UNBIND v (R304). -/
  | unbind (v : Byte)
  /-- 0x0F SET_SMP v, id, mode, loopStart, loopEnd (R305). -/
  | setSmp (v : Byte) (id : Half) (mode : LoopMode) (loopStart loopEnd : Word)
  /-- 0x10 SET_ARP v, count, ms, notes (R306); the count is the length of the list. -/
  | setArp (v : Byte) (ms : Word) (notes : List Word)
  /-- 0x11 DET_ARP v (R307). -/
  | detArp (v : Byte)
  /-- 0x12 GLIDE v, startFreq, endFreq, ms (R308). -/
  | glide (v : Byte) (startFreq endFreq ms : Word)
  /-- 0x13 GLIDE_TO v, endFreq, ms (R309). -/
  | glideTo (v : Byte) (endFreq ms : Word)
  /-- 0x14 SET_RATE hz (R310). -/
  | setRate (hz : Word)
  /-- 0x15 SET_MVOL volume (R311). -/
  | setMvol (volume : Byte)
  /-- 0x16 GET_FREQ v (R312). -/
  | getFreq (v : Byte)
  /-- 0x17 GET_VOL v (R313). -/
  | getVol (v : Byte)
  /-- 0x18 GET_ENV v (R314). -/
  | getEnv (v : Byte)
  /-- 0x19 GET_ENV8 v (R315). -/
  | getEnv8 (v : Byte)
  /-- 0x1A GET_LVL v (R316). -/
  | getLvl (v : Byte)
  /-- 0x1B GET_LVL8 v (R317). -/
  | getLvl8 (v : Byte)
  /-- 0x1C REG_SMP id, base, length, rate, root (R318). -/
  | regSmp (id : Half) (base length rate root : Word)
  /-- 0x1D RENDER fmt, n (R265): the width code is `a[1:0]`, the crush flag `a[2]`. -/
  | render (n : Half) (width : BitVec 2) (crush : Bool)
  deriving DecidableEq, Repr

/-- The voice index a command carries in its field `a`: all but NOP, REG_WT, REG_SMP, SET_RATE, SET_MVOL and RENDER
carry one (R97). -/
def Instr.voiceOperand : Instr → Option Byte
  | .nop => none
  | .noteOn v _ _ => some v
  | .noteOff v => some v
  | .setFreq v _ => some v
  | .setVol v _ => some v
  | .setWave v _ => some v
  | .setPw v _ => some v
  | .setEnv v _ _ _ _ => some v
  | .setVib v _ _ => some v
  | .setTrem v _ _ => some v
  | .setWt v _ => some v
  | .regWt _ _ _ _ => none
  | .bindTrk v _ => some v
  | .bindSmp v _ => some v
  | .unbind v => some v
  | .setSmp v _ _ _ _ => some v
  | .setArp v _ _ => some v
  | .detArp v => some v
  | .glide v _ _ _ => some v
  | .glideTo v _ _ => some v
  | .setRate _ => none
  | .setMvol _ => none
  | .getFreq v => some v
  | .getVol v => some v
  | .getEnv v => some v
  | .getEnv8 v => some v
  | .getLvl v => some v
  | .getLvl8 v => some v
  | .regSmp _ _ _ _ _ => none
  | .render _ _ _ => none

/-- The six accessors, the only commands that answer on the response stream (R98, `49_control_commands.md` section 6). -/
def Instr.isGet : Instr → Bool
  | .nop => false
  | .noteOn _ _ _ => false
  | .noteOff _ => false
  | .setFreq _ _ => false
  | .setVol _ _ => false
  | .setWave _ _ => false
  | .setPw _ _ => false
  | .setEnv _ _ _ _ _ => false
  | .setVib _ _ _ => false
  | .setTrem _ _ _ => false
  | .setWt _ _ => false
  | .regWt _ _ _ _ => false
  | .bindTrk _ _ => false
  | .bindSmp _ _ => false
  | .unbind _ => false
  | .setSmp _ _ _ _ _ => false
  | .setArp _ _ _ => false
  | .detArp _ => false
  | .glide _ _ _ _ => false
  | .glideTo _ _ _ => false
  | .setRate _ => false
  | .setMvol _ => false
  | .getFreq _ => true
  | .getVol _ => true
  | .getEnv _ => true
  | .getEnv8 _ => true
  | .getLvl _ => true
  | .getLvl8 _ => true
  | .regSmp _ _ _ _ _ => false
  | .render _ _ _ => false

end Sys2Proof
end

