-- ==== Sys2Proof/Decode.lean ====
section
/-! DEFINITION. The command decoder and encoder (`30_encoding.md` R90 to R97). Commands are 32-bit words taken in order
from the command port; inside the block they have no byte order (`20_memory.md` R62). -/

namespace Sys2Proof

/-- What the decoder makes of the words waiting on the command port. The two rejections are by name. -/
inductive Decoded where
  /-- A whole command and the words after it. -/
  | instr (i : Instr) (rest : List Word)
  /-- A header with an opcode 0x1E to 0xFF: a one-word command that is ignored (R95). -/
  | undefinedOpcode (op : Byte) (rest : List Word)
  /-- No header, or fewer operand words than the header asks for: the decoder waits (R91). -/
  | incomplete
  deriving DecidableEq, Repr

/-- Header bits 7:0, the opcode (R90). -/
def headerOp (h : Word) : Byte := h.extractLsb' 0 8

/-- Header bits 15:8, a voice index or small argument (R90). -/
def headerA (h : Word) : Byte := h.extractLsb' 8 8

/-- Header bits 31:16, the immediate (R90). -/
def headerImm (h : Word) : Half := h.extractLsb' 16 16

/-- `imm[7:0]`, header bits 23:16 (R92). -/
def headerImmLow (h : Word) : Byte := h.extractLsb' 16 8

/-- The number of operand words that follow a header (R91): a function of the opcode alone, but for SET_ARP. -/
def operandCount (h : Word) : Nat :=
  match (headerOp h).toNat with
  | 0x01 => 1
  | 0x03 => 1
  | 0x06 => 1
  | 0x09 => 1
  | 0x0C => 1
  | 0x0D => 1
  | 0x14 => 1
  | 0x08 => 2
  | 0x0B => 2
  | 0x13 => 2
  | 0x0F => 3
  | 0x12 => 3
  | 0x07 => 4
  | 0x1C => 4
  | 0x10 => 1 + (headerImmLow h).toNat
  | _ => 0

/-- The loop mode of a two-bit code (`10_state.md` R25). -/
def loopModeOfCode (c : BitVec 2) : LoopMode :=
  if c = 0 then .off else if c = 1 then .forward else if c = 2 then .pingPong else .reverse

/-- The two-bit code of a loop mode (`10_state.md` R25). -/
def loopModeCode : LoopMode → Nat
  | .off => 0
  | .forward => 1
  | .pingPong => 2
  | .reverse => 3

/-- The command a header and its operand words stand for (R92, R93); none for an undefined opcode (R95). `w k` is the
operand word the spec calls `w<k>`; the caller has checked that all of them have arrived. -/
def instrOf (h : Word) (ops : List Word) : Option Instr :=
  let w (k : Nat) : Word := ops.getD (k - 1) 0
  let v := headerA h
  let imm := headerImm h
  let immLow := headerImmLow h
  match (headerOp h).toNat with
  | 0x00 => some .nop
  | 0x01 => some (.noteOn v immLow (w 1))
  | 0x02 => some (.noteOff v)
  | 0x03 => some (.setFreq v (w 1))
  | 0x04 => some (.setVol v immLow)
  | 0x05 => some (.setWave v imm)
  | 0x06 => some (.setPw v (w 1))
  | 0x07 => some (.setEnv v (w 1) (w 2) (w 3) (w 4))
  | 0x08 => some (.setVib v (w 1) (w 2))
  | 0x09 => some (.setTrem v immLow (w 1))
  | 0x0A => some (.setWt v imm)
  | 0x0B => some (.regWt v imm (w 1) (w 2))
  | 0x0C => some (.bindTrk v (w 1))
  | 0x0D => some (.bindSmp v (w 1))
  | 0x0E => some (.unbind v)
  | 0x0F => some (.setSmp v imm (loopModeOfCode ((w 1).extractLsb' 0 2)) (w 2) (w 3))
  | 0x10 => some (.setArp v (w 1) (ops.drop 1))
  | 0x11 => some (.detArp v)
  | 0x12 => some (.glide v (w 1) (w 2) (w 3))
  | 0x13 => some (.glideTo v (w 1) (w 2))
  | 0x14 => some (.setRate (w 1))
  | 0x15 => some (.setMvol immLow)
  | 0x16 => some (.getFreq v)
  | 0x17 => some (.getVol v)
  | 0x18 => some (.getEnv v)
  | 0x19 => some (.getEnv8 v)
  | 0x1A => some (.getLvl v)
  | 0x1B => some (.getLvl8 v)
  | 0x1C => some (.regSmp imm (w 1) (w 2) (w 3) (w 4))
  | 0x1D => some (.render imm (v.extractLsb' 0 2) (v.getLsbD 2))
  | _ => none

/-- The decoder: it "reads the header, determines the length from this table, takes that many further words, and only
then executes" (R91). -/
def decode : List Word → Decoded
  | [] => .incomplete
  | h :: ws =>
    if ws.length < operandCount h then .incomplete
    else
      match instrOf h (ws.take (operandCount h)) with
      | some i => .instr i (ws.drop (operandCount h))
      | none => .undefinedOpcode (headerOp h) (ws.drop (operandCount h))

/-- A header word from its three fields: `op + 256*a + 65536*imm` (R100). -/
def header (op : Nat) (a : Byte) (imm : Half) : Word :=
  BitVec.ofNat 32 (op + 256 * a.toNat + 65536 * imm.toNat)

/-- The encoder: the words of a well-formed command, unused fields zero (R90 to R93, R96). -/
def encode : Instr → List Word
  | .nop => [header 0x00 0 0]
  | .noteOn v volume freq => [header 0x01 v (volume.setWidth 16), freq]
  | .noteOff v => [header 0x02 v 0]
  | .setFreq v freq => [header 0x03 v 0, freq]
  | .setVol v volume => [header 0x04 v (volume.setWidth 16)]
  | .setWave v code => [header 0x05 v code]
  | .setPw v threshold => [header 0x06 v 0, threshold]
  | .setEnv v attack decay sustain release => [header 0x07 v 0, attack, decay, sustain, release]
  | .setVib v rate depth => [header 0x08 v 0, rate, depth]
  | .setTrem v depth rate => [header 0x09 v (depth.setWidth 16), rate]
  | .setWt v id => [header 0x0A v id]
  | .regWt depth id base size => [header 0x0B depth id, base, size]
  | .bindTrk v addr => [header 0x0C v 0, addr]
  | .bindSmp v addr => [header 0x0D v 0, addr]
  | .unbind v => [header 0x0E v 0]
  | .setSmp v id mode loopStart loopEnd =>
    [header 0x0F v id, BitVec.ofNat 32 (loopModeCode mode), loopStart, loopEnd]
  | .setArp v ms notes => header 0x10 v (BitVec.ofNat 16 notes.length) :: ms :: notes
  | .detArp v => [header 0x11 v 0]
  | .glide v startFreq endFreq ms => [header 0x12 v 0, startFreq, endFreq, ms]
  | .glideTo v endFreq ms => [header 0x13 v 0, endFreq, ms]
  | .setRate hz => [header 0x14 0 0, hz]
  | .setMvol volume => [header 0x15 0 (volume.setWidth 16)]
  | .getFreq v => [header 0x16 v 0]
  | .getVol v => [header 0x17 v 0]
  | .getEnv v => [header 0x18 v 0]
  | .getEnv8 v => [header 0x19 v 0]
  | .getLvl v => [header 0x1A v 0]
  | .getLvl8 v => [header 0x1B v 0]
  | .regSmp id base length rate root => [header 0x1C 0 id, base, length, rate, root]
  | .render n width crush => [header 0x1D (BitVec.ofNat 8 (width.toNat + 4 * crush.toNat)) n]

/-- The longest command is SET_ARP with 255 notes: a header, the duration and the notes (R91). -/
def maxCommandWords : Nat := 257

/-- The words of a command whose bits are the number w: word 0 is its bits 31:0, word 1 its bits 63:32, and so on, every
bit from nbits up being 0. -/
def tableWords (nbits w : Nat) : List Word :=
  let bits := w % (1 <<< nbits)
  (List.range maxCommandWords).map fun k => BitVec.ofNat 32 (bits >>> (32 * k))

/-- The command the decoder reads from a command whose bits, numbered as `opcode_table.json` numbers them, are w. -/
def decodeTableWord (nbits w : Nat) : Option Instr :=
  match decode (tableWords nbits w) with
  | .instr i _ => some i
  | .undefinedOpcode _ _ => none
  | .incomplete => none

end Sys2Proof
end

