-- ==== Sys2Proof/Machine/Arith.lean ====
section
/-! DEFINITION. The arithmetic of the pseudocode (`00_scope.md` R9, R10): expressions are over unbounded integers, and
these are the named reductions, shifts and divisions. -/

namespace Sys2Proof.Machine

/-- `u32(x) = x mod 2^32` (R9). -/
def u32 (x : Int) : Word := BitVec.ofInt 32 x

/-- `u8(x) = x mod 2^8` (R9). -/
def u8 (x : Int) : Byte := BitVec.ofInt 8 x

/-- `s16(x)`: the value in -32768 .. 32767 congruent to x mod 2^16 (R9). -/
def s16 (x : Nat) : Int := (BitVec.ofNat 16 x).toInt

/-- `x >> k = floor(x / 2^k)`, negative x included: it rounds toward minus infinity (R10). -/
def shr (x : Int) (k : Nat) : Int := x / 2 ^ k

/-- `cdiv(a, b) = ceil(a / b)` for b > 0 (R10). -/
def cdiv (a b : Nat) : Nat := (a + b - 1) / b

/-- `tdiv(a, b)` for b > 0: the quotient truncated toward zero (R10). -/
def tdiv (a : Int) (b : Nat) : Int := Int.tdiv a b

/-- `clip(x, lo, hi) = min(max(x, lo), hi)` (R10). -/
def clip (x lo hi : Int) : Int := min (max x lo) hi

end Sys2Proof.Machine
end

