-- ==== Sys2Proof/Config.lean ====
section
/-! DEFINITION. The parameters of the block (`00_scope.md` R6): the OPEN ones as a record, the FIXED ones as constants,
and the one free value of the model, the byte of an unpopulated table-memory address (`20_memory.md` R61). -/

namespace Sys2Proof

/-- Which nibble of a byte holds the even-indexed 4-bit element (R69). -/
inductive NibbleOrder where
  | lowFirst
  | highFirst
  deriving DecidableEq, Repr

/-- The OPEN parameters (R6). `sineRom` is the 4096-word table as 64 rows of 64: entry i is word `i % 64` of row
`i / 64`. -/
structure Config where
  nv : Nat
  fs : Nat
  maxBlk : Nat
  ns : Nat
  nw : Nat
  nibbleOrder : NibbleOrder
  sineRom : List (List Word)
  deriving DecidableEq, Repr

/-- The constraints of R6 on the OPEN parameters. -/
abbrev Config.Valid (c : Config) : Prop :=
  (1 ≤ c.nv ∧ c.nv ≤ 256) ∧ (1 ≤ c.fs ∧ c.fs * 100 < 4294967296) ∧ (1 ≤ c.maxBlk ∧ c.maxBlk ≤ 65535) ∧
  (1 ≤ c.ns ∧ c.ns ≤ 65535) ∧ (1 ≤ c.nw ∧ c.nw ≤ 32768) ∧
  (c.sineRom.length = 64 ∧ ∀ row ∈ c.sineRom, row.length = 64)

/-- FREE VALUE (log 3). The byte read at a table-memory address the platform has not populated: "the model must treat
such a byte as an unconstrained value, not as zero" (R61, U1). It depends on the address alone, since a repeated read
returns the same value (R64). -/
opaque Config.unpopulatedByte : Nat → Byte

/-- ENV_MAX, the top of the envelope range (R6). -/
abbrev envMax : Nat := 268435456

/-- RATE_INF: an envelope rate at or above it is infinite (R6). -/
abbrev rateInf : Nat := 268435456

/-- CTRL_RATE_DEFAULT, the control rate after reset in Hz (R6). -/
abbrev ctrlRateDefault : Nat := 100

/-- ARP_MAX, the capacity of the arpeggio note list (R6). -/
abbrev arpMax : Nat := 8

/-- TRK_MAX, the stages per tracker sequence (R6). -/
abbrev trkMax : Nat := 16

/-- ZONE_MAX, the zones per sample instrument (R6). -/
abbrev zoneMax : Nat := 8

/-- PULSE_AMP, the pulse amplitude (R6). -/
abbrev pulseAmp : Int := 32767

/-- The number of bytes of table memory, 2^32 (R60). -/
abbrev addrSpace : Nat := 4294967296

end Sys2Proof
end

