-- ==== Sys2Proof/Machine/State.lean ====
section
/-! DEFINITION. The architectural state (`10_state.md`), all of it plain data, and its reset values (R39). The parameters
NV, MAXBLK, NS and NW (`00_scope.md` R6) are the lengths of the voice file, the mix buffer and the two registries; FS,
NIBBLE_ORDER and SINE_ROM are fields. Nothing here fixes their values but the reset state. -/

namespace Sys2Proof.Machine

/-- The envelope states (R21). -/
inductive EnvState where
  | idle
  | attack
  | decay
  | sustain
  | release
  deriving DecidableEq, Repr

/-- The nominal waveform kinds (R24). -/
inductive Kind where
  | basic
  | wavetable
  | sample
  | noise
  deriving DecidableEq, Repr

/-- The basic shapes (R24): codes 0 to 3 in this order. -/
inductive Shape where
  | saw
  | sine
  | pulse
  | triangle
  deriving DecidableEq, Repr

/-- `smpDir` (R25): 0 is forward, 1 backward. -/
inductive Direction where
  | forward
  | backward
  deriving DecidableEq, Repr

/-- One voice slot, the fields of R21 to R30 under the spec's names. -/
structure Voice where
  /-- R21. -/
  active : Bool
  envState : EnvState
  /-- R22. -/
  freq : Word
  phase : Word
  phaseInc : Word
  /-- R23; `envValue` and `sustain` are 29 bits, 0 to ENV_MAX. -/
  volume : Byte
  envValue : BitVec 29
  rateAttack : Word
  rateDecay : Word
  rateRelease : Word
  sustain : BitVec 29
  /-- R24. -/
  kind : Kind
  shape : Shape
  pulseWidth : Word
  wtId : Half
  /-- R25; `smpPos` is 48.16 fixed point. -/
  smpId : Half
  loopMode : LoopMode
  loopStart : Word
  loopEnd : Word
  smpPos : BitVec 64
  smpDir : Direction
  smpFinished : Bool
  rootOverride : Word
  /-- R26. -/
  noiseSeed : Word
  /-- R27; `vibOffset` is two's complement modulo 2^32. -/
  vibPhase : Word
  vibRate : Word
  vibDepth : Word
  vibOffset : Word
  tremPhase : Word
  tremRate : Word
  tremDepth : Byte
  tremGain : Byte
  /-- R28; delta, remainder and accumulator are signed 34-bit numbers. -/
  glideActive : Bool
  glideDelta : BitVec 34
  glideRem : BitVec 34
  glideRemAcc : BitVec 34
  glideTarget : Word
  glideTicks : Word
  glideLeft : Word
  /-- R29; `arpNotes` has ARP_MAX entries. -/
  arpLen : BitVec 4
  arpNotes : List Word
  arpIndex : BitVec 3
  arpCounter : Word
  arpSpeedMs : Word
  /-- R30; `trkCur` and `trkNext` are signed waveform codes. -/
  trkAddr : Word
  smpInstAddr : Word
  trkStage : BitVec 5
  trkTick : Word
  trkCur : Half
  trkNext : Half
  trkMorph : Byte
  trkVol : Byte
  deriving DecidableEq, Repr

/-- An entry of the sample registry SREG (R32). -/
structure SmpEntry where
  valid : Bool
  base : Word
  length : Word
  rate : Word
  root : Word
  deriving DecidableEq, Repr

/-- An entry of the wavetable registry WREG (R32); a valid entry's depth is 4, 8 or 16 (R301). -/
structure WtEntry where
  valid : Bool
  base : Word
  size : Word
  depth : BitVec 5
  deriving DecidableEq, Repr

/-- Table memory (`20_memory.md` R61): the populated bytes in rising address order. An address that is not listed is
unpopulated: it holds no known value (log 3). -/
abbrev Memory := List Host.Cell

/-- The whole state of the block and of what it is connected to. -/
structure State where
  /-- The voice file V (R20); its length is NV. -/
  voices : List Voice
  /-- The global registers (R31). -/
  master : Byte
  ctrlRate : Word
  ctrlInterval : Word
  ctrlCounter : Word
  /-- The registries (R32); their lengths are NS and NW. -/
  sreg : List SmpEntry
  wreg : List WtEntry
  /-- The mix buffer (R33), two's complement words; its length is MAXBLK. -/
  mix : List Word
  /-- Table memory (R61). -/
  mem : Memory
  /-- SINE_ROM (R65), 64 rows of 64 words. -/
  sineRom : List (List Word)
  /-- The parameters FS and NIBBLE_ORDER (`00_scope.md` R6). -/
  fs : Nat
  nibbleOrder : NibbleOrder
  /-- The words on the command port not yet consumed, in arrival order (`30_encoding.md` R90). -/
  cmd : List Word
  /-- The response stream (R98), oldest first. -/
  resp : List Word
  /-- The audio output stream (R99), oldest first. -/
  out : List Word
  deriving DecidableEq, Repr

/-- What a procedure that works on one voice may read beside the voice itself. Other voices are not in it: "there is no
cross-voice interaction except through the shared mix buffer" (R20). -/
structure Ctx where
  fs : Nat
  nibbleOrder : NibbleOrder
  sineRom : List (List Word)
  mem : Memory
  sreg : List SmpEntry
  wreg : List WtEntry
  ctrlRate : Word
  deriving DecidableEq, Repr

/-- The surroundings of every voice in a state. -/
def State.ctx (s : State) : Ctx :=
  { fs := s.fs, nibbleOrder := s.nibbleOrder, sineRom := s.sineRom, mem := s.mem, sreg := s.sreg, wreg := s.wreg,
    ctrlRate := s.ctrlRate }

/-- The parameters of the block (R6), read off a state. -/
def State.config (s : State) : Config :=
  { nv := s.voices.length, fs := s.fs, maxBlk := s.mix.length, ns := s.sreg.length, nw := s.wreg.length,
    nibbleOrder := s.nibbleOrder, sineRom := s.sineRom }

/-- The block-uniform envelope of one voice (`40_envelope_ramp_engine.md` R110): sample i uses `start + i*step`. -/
structure Ramp where
  start : Int
  step : Int
  deriving DecidableEq, Repr

/-- The part of a sample voice that moves within a block (`43_sample_playback_oscillator.md` R173): position,
direction, and whether the voice ended (R169). -/
structure PlayHead where
  pos : BitVec 64
  dir : Direction
  ended : Bool
  deriving DecidableEq, Repr

/-- The output word widths (`48_block_mixer_quantizer.md` R275). -/
inductive OutWidth where
  | w8
  | w16
  | w32
  deriving DecidableEq, Repr

/-- The reasons a step can fault: none, "no command and no internal operation can trap, fault, abort, raise, signal or
report an error" (`60_exceptions.md` R340). Nothing raises a fault; safe, since there is none (log 14). -/
inductive Fault where
  deriving DecidableEq, Repr

/-- The reasons a step can be refused. -/
inductive Refusal where
  /-- Raised by a command of `exec` that has no meaning yet, under its mnemonic; no command is left without one. Safe:
  the model stops where the block goes on. -/
  | notModelled (mnemonic : String)
  deriving DecidableEq, Repr

/-- A voice right after reset (R39). -/
def Voice.reset : Voice where
  active := false
  envState := .idle
  freq := 0
  phase := 0
  phaseInc := 0
  volume := 0
  envValue := 0
  rateAttack := BitVec.ofNat 32 rateInf
  rateDecay := BitVec.ofNat 32 rateInf
  rateRelease := BitVec.ofNat 32 rateInf
  sustain := BitVec.ofNat 29 envMax
  kind := .basic
  shape := .saw
  pulseWidth := 0x80000000
  wtId := 0
  smpId := 0
  loopMode := .off
  loopStart := 0
  loopEnd := 0
  smpPos := 0
  smpDir := .forward
  smpFinished := false
  rootOverride := 0
  noiseSeed := 0
  vibPhase := 0
  vibRate := 0
  vibDepth := 0
  vibOffset := 0
  tremPhase := 0
  tremRate := 0
  tremDepth := 0
  tremGain := 255
  glideActive := false
  glideDelta := 0
  glideRem := 0
  glideRemAcc := 0
  glideTarget := 0
  glideTicks := 0
  glideLeft := 0
  arpLen := 0
  arpNotes := List.replicate arpMax 0
  arpIndex := 0
  arpCounter := 0
  arpSpeedMs := 0
  trkAddr := 0
  smpInstAddr := 0
  trkStage := 0
  trkTick := 0
  trkCur := 0
  trkNext := 0
  trkMorph := 0
  trkVol := 0

/-- A registry entry right after reset: `valid` = 0, other fields 0 (R39). -/
def SmpEntry.reset : SmpEntry := { valid := false, base := 0, length := 0, rate := 0, root := 0 }

/-- A registry entry right after reset: `valid` = 0, other fields 0 (R39). -/
def WtEntry.reset : WtEntry := { valid := false, base := 0, size := 0, depth := 0 }

/-- The block right after reset (R39), for any parameters, with the platform's table memory beside it (R361). The mix
buffer's reset contents are the model's choice, log 2: R39 leaves them unspecified. -/
def State.resetWith (c : Config) (mem : Memory) : State where
  voices := List.replicate c.nv Voice.reset
  master := 255
  ctrlRate := BitVec.ofNat 32 ctrlRateDefault
  ctrlInterval := BitVec.ofNat 32 (max 1 (c.fs / ctrlRateDefault))
  ctrlCounter := 0
  sreg := List.replicate c.ns SmpEntry.reset
  wreg := List.replicate c.nw WtEntry.reset
  mix := List.replicate c.maxBlk 0
  mem := mem
  sineRom := c.sineRom
  fs := c.fs
  nibbleOrder := c.nibbleOrder
  cmd := []
  resp := []
  out := []

/-- The block right after reset with the default parameters of R6 and no table-memory byte populated (log 4). -/
def State.reset : State := State.resetWith defaultConfig []

end Sys2Proof.Machine
end

