-- ==== Sys2Proof/Machine/Flags.lean ====
section
/-! DEFINITION. The single-bit status fields. The block has no condition codes (`10_state.md` R35): the status bits are
`active`, `smpFinished`, `glideActive` and `smpDir` of a voice and `valid` of a registry entry, "each is set and cleared
only by the rules named in its table row, and none is written as a side effect of arithmetic". -/

namespace Sys2Proof.Machine

/-- Entering Idle: "whenever a rule sets `envState <- Idle` it also sets `envValue <- 0` and `active <- 0`" (R37). -/
def Voice.enterIdle (x : Voice) : Voice := { x with envState := .idle, active := false, envValue := 0 }

/-- A sample that reaches its end in loop mode Off: finished, and the voice goes Idle
(`43_sample_playback_oscillator.md` R169). -/
def Voice.finishSample (x : Voice) : Voice := { x.enterIdle with smpFinished := true }

/-- The status bits NOTE_ON sets and clears (`49_control_commands.md` R291). -/
def Voice.claim (x : Voice) : Voice :=
  { x with active := true, envState := .attack, glideActive := false, smpFinished := false }

end Sys2Proof.Machine
end

