-- ==== Sys2Proof/Machine/Envelope.lean ====
section
/-! DEFINITION. envelope_ramp_engine (`40_envelope_ramp_engine.md` R110 to R123): the block-uniform ramp of a voice and
its ADSR state machine. Envelope values are computed as integers and stored in 29 bits (log 10). -/

namespace Sys2Proof.Machine

/-- A ramp from one value to another over n samples; the step is rounded toward zero (R120). -/
def rampTo (start stop : Int) (n : Nat) : Ramp := { start := start, step := tdiv (stop - start) n }

/-- `Env(i) = start + i * step` (R121). -/
def Ramp.env (r : Ramp) (i : Nat) : Int := r.start + i * r.step

/-- `DecayMove(v, y, m)` (R116): the value after moving y toward the sustain level for m samples, and whether the level
was reached. -/
def decayMove (x : Voice) (y : Int) (m : Nat) : Int × Bool :=
  let level : Int := x.sustain.toNat
  let tot : Int := x.rateDecay.toNat * m
  if y = level then (level, true)
  else if m = 0 then (y, false)
  else if rateInf ≤ x.rateDecay.toNat then (level, true)
  else if level < y then
    if y - tot ≤ level then (level, true) else (y - tot, false)
  else
    if level ≤ y + tot then (level, true) else (y + tot, false)

/-- Store an envelope value computed as an integer. -/
def Voice.setEnvValue (x : Voice) (y : Int) : Voice := { x with envValue := BitVec.ofInt 29 y }

/-- Attack at a finite rate, with the crossing into Decay inside the block (R113, R114). -/
def attackBlock (n : Nat) (x : Voice) : Ramp × Voice :=
  let start := x.envValue.toNat
  let rate := x.rateAttack.toNat
  let remaining := envMax - start
  let total := rate * n
  if total < remaining then
    (rampTo start ((start : Int) + total) n, x.setEnvValue ((start : Int) + total))
  else
    let k := if remaining = 0 then 0 else cdiv remaining rate
    let moved := decayMove x envMax (n - k)
    (rampTo start moved.1 n,
      { x.setEnvValue moved.1 with envState := if moved.2 then EnvState.sustain else EnvState.decay })

/-- Decay at a finite rate (R115). -/
def decayBlock (n : Nat) (x : Voice) : Ramp × Voice :=
  let start : Int := x.envValue.toNat
  let moved := decayMove x start n
  (rampTo start moved.1 n,
    { x.setEnvValue moved.1 with envState := if moved.2 then EnvState.sustain else EnvState.decay })

/-- Release at a finite rate; a release that reaches 0 ends the voice (R118). -/
def releaseBlock (n : Nat) (x : Voice) : Ramp × Voice :=
  let start := x.envValue.toNat
  let tot := x.rateRelease.toNat * n
  if start ≤ tot then (rampTo start 0 n, x.enterIdle)
  else (rampTo start ((start : Int) - tot) n, x.setEnvValue ((start : Int) - tot))

/-- `EnvBlock(v, n)` (R110): pinned for a tracker-bound voice (R111), else by envelope state (R112 to R118), with the
immediate jumps of an infinite rate (R119). -/
def envBlock (n : Nat) (x : Voice) : Ramp × Voice :=
  if x.trkAddr ≠ 0 then ({ start := envMax, step := 0 }, x.setEnvValue envMax)
  else
    match x.envState with
    | .idle => ({ start := 0, step := 0 }, x.setEnvValue 0)
    | .attack =>
      if rateInf ≤ x.rateAttack.toNat then
        ({ start := envMax, step := 0 }, { x.setEnvValue envMax with envState := EnvState.decay })
      else attackBlock n x
    | .decay =>
      if rateInf ≤ x.rateDecay.toNat then
        ({ start := x.sustain.toNat, step := 0 }, { x with envValue := x.sustain, envState := EnvState.sustain })
      else decayBlock n x
    | .sustain => ({ start := x.envValue.toNat, step := 0 }, x)
    | .release =>
      if rateInf ≤ x.rateRelease.toNat then ({ start := 0, step := 0 }, x.enterIdle)
      else releaseBlock n x

end Sys2Proof.Machine
end

