-- ==== Sys2Proof/Machine/Ops.lean ====
section
/-! DEFINITION. The named operations over memory, the voice file, the registries, the sine ROM and the streams
(`00_scope.md` R11 to R13), and the inputs of the host and the platform. There is no operation for taking an exception
or returning from one: the block has neither (`60_exceptions.md` R340, R348; log 14). -/

namespace Sys2Proof.Machine

/-! ## Table memory -/

/-- The populated byte at an address, if there is one. -/
def byteAt? : Memory → Nat → Option Byte
  | [], _ => none
  | (k, b) :: rest, a => if k = a then some b else byteAt? rest a

/-- Populate one address, keeping the list in rising address order. -/
def putByte : Memory → Nat → Byte → Memory
  | [], a, b => [(a, b)]
  | (k, x) :: rest, a, b =>
    if a < k then (a, b) :: (k, x) :: rest
    else if a = k then (a, b) :: rest
    else (k, x) :: putByte rest a b

/-- Addresses strictly rising from lo on, all inside the address space. -/
def Memory.wfFrom : Nat → Memory → Bool
  | _, [] => true
  | lo, (k, _) :: rest => decide (lo ≤ k) && decide (k < addrSpace) && Memory.wfFrom (k + 1) rest

/-- The canonical form of table memory. An unlisted address holds no value (log 3), so no entry can repeat what an
unlisted address holds. -/
def Memory.wf (m : Memory) : Bool := Memory.wfFrom 0 m

/-- The byte the block reads at `u32(a)`: what the platform populated, else the free value of that address
(`20_memory.md` R61, R63). -/
def memByte (m : Memory) (a : Nat) : Byte :=
  (byteAt? m (a % addrSpace)).getD (Config.unpopulatedByte (a % addrSpace))

/-- `MemRead(a, n)`: the n bytes from a on as one little-endian number (`00_scope.md` R12; `20_memory.md` R62). -/
def memRead (m : Memory) (a : Nat) : Nat → Nat
  | 0 => 0
  | n + 1 => (memByte m a).toNat + 256 * memRead m (a + 1) n

/-! ## Sine ROM -/

/-- `Rom(i)` for 0 <= i <= 4095 (`20_memory.md` R65). -/
def romWord (c : Ctx) (i : Nat) : Int := ((c.sineRom.getD (i / 64) []).getD (i % 64) 0).toInt

/-! ## Voice file and registries -/

/-- NV (`00_scope.md` R6). -/
def State.nv (s : State) : Nat := s.voices.length

/-- `V[v]`, absent when `v >= NV` (`10_state.md` R20). -/
def State.voice? (s : State) (v : Byte) : Option Voice := s.voices[v.toNat]?

/-- Rewrite slot v; with `v >= NV` nothing changes (`30_encoding.md` R97). -/
def State.updateVoice (s : State) (v : Byte) (f : Voice → Voice) : State :=
  match s.voice? v with
  | none => s
  | some x => { s with voices := s.voices.set v.toNat (f x) }

/-- The sample of an id, unless it is missing (`20_memory.md` R67). -/
def smpEntry? (c : Ctx) (id : Nat) : Option SmpEntry :=
  match c.sreg[id]? with
  | none => none
  | some e => if e.valid = false ∨ e.base = 0 ∨ e.length = 0 then none else some e

/-- The wavetable of an id, unless it is missing (`20_memory.md` R67). -/
def wtEntry? (c : Ctx) (id : Nat) : Option WtEntry :=
  match c.wreg[id]? with
  | none => none
  | some e => if e.valid = false ∨ e.base = 0 ∨ e.size = 0 then none else some e

/-! ## Streams -/

/-- `Respond(w)` (`00_scope.md` R13; `30_encoding.md` R98). -/
def State.respond (s : State) (w : Word) : State := { s with resp := s.resp ++ [w] }

/-- `Emit` of a block's words, in order (`00_scope.md` R13; `30_encoding.md` R99). -/
def State.emit (s : State) (ws : List Word) : State := { s with out := s.out ++ ws }

/-- A GET command answers with one word, 0 when `v >= NV`, and changes nothing else (R97, R98). -/
def State.answer (s : State) (v : Byte) (g : Voice → Word) : State :=
  match s.voice? v with
  | none => s.respond 0
  | some x => s.respond (g x)

/-! ## Inputs, between commands only (log 7) -/

/-- The host hands words over on the command port (R90). -/
def State.send (s : State) (ws : List Word) : State := { s with cmd := s.cmd ++ ws }

/-- The platform writes a table-memory byte between commands (`20_memory.md` R76). -/
def State.platformWrite (s : State) (a : Word) (b : Byte) : State := { s with mem := putByte s.mem a.toNat b }

/-- The platform asserts reset: every state element takes its reset value, the streams are emptied, table memory, the
sine ROM and the parameters stay (`70_reset_and_hazards.md` R360, R361). -/
def State.resetInput (s : State) : State := State.resetWith s.config s.mem

end Sys2Proof.Machine
end

