-- ==== Sys2Proof/Machine/Operands.lean ====
section
/-! DEFINITION. What the operands of a command stand for: the unit conversions (`41_phase_accumulator.md` R131, R132;
`45_lfo_modulator.md` R207) and the small codes (`30_encoding.md` R92, R94). -/

namespace Sys2Proof.Machine

/-- `Inc(f)`: the phase increment of a frequency in cHz (R131). -/
def inc (fs : Nat) (f : Word) : Word := BitVec.ofNat 32 ((f.toNat * 4294967296) / (fs * 100))

/-- `FreqFromInc(i)`: the logical frequency of an increment (R132). -/
def freqFromInc (fs : Nat) (i : Word) : Word := BitVec.ofNat 32 ((i.toNat * fs * 100) >>> 32)

/-- `TicksFromMs(ms)` at a control rate: rounded up, saturated to 32 bits (R207). -/
def ticksFromMs (ctrlRate : Word) (ms : Nat) : Nat := min 4294967295 (cdiv (ms * ctrlRate.toNat) 1000)

/-- The shape of a waveform code 0 to 3 (`10_state.md` R24; R94): none for any other code. -/
def shapeOfCode (code : Nat) : Option Shape :=
  match code with
  | 0 => some .saw
  | 1 => some .sine
  | 2 => some .pulse
  | 3 => some .triangle
  | _ => none

/-- The depth operand of REG_WT: "the literal number 4, 8 or 16" (R92), none for any other. -/
def depthOperand (a : Byte) : Option (BitVec 5) :=
  if a = 4 then some 4 else if a = 8 then some 8 else if a = 16 then some 16 else none

/-- The width code of RENDER: code 3 is reserved (R92). -/
def outWidthOfCode (code : BitVec 2) : Option OutWidth :=
  if code = 0 then some .w8 else if code = 1 then some .w16 else if code = 2 then some .w32 else none

/-- The sustain operand of SET_ENV, clamped to ENV_MAX (`49_control_commands.md` R297). -/
def sustainOperand (w : Word) : BitVec 29 := BitVec.ofNat 29 (min w.toNat envMax)

/-- `G.ctrlInterval` for a control rate: `max(1, fdiv(FS, rate))` (`45_lfo_modulator.md` R201). -/
def intervalOfRate (fs : Nat) (rate : Word) : Word := BitVec.ofNat 32 (max 1 (fs / rate.toNat))

end Sys2Proof.Machine
end

