-- ==== Sys2Proof/Machine/Phase.lean ====
section
/-! DEFINITION. phase_accumulator (`41_phase_accumulator.md` R130 to R144): the four basic waveforms, the mixing formula
every renderer shares, and the render loop of the phase-driven renderers. -/

namespace Sys2Proof.Machine

/-- `EffInc(v)`: the increment with the vibrato offset, modulo 2^32 (R133). -/
def Voice.effInc (x : Voice) : Word := x.phaseInc + x.vibOffset

/-- `Saw(p)`: the top 16 bits of the phase, signed (R135). -/
def saw (p : Word) : Int := s16 (p.toNat >>> 16)

/-- `Sine(p) = Rom(p >> 20) >> 16` (R136). -/
def sine (c : Ctx) (p : Word) : Int := shr (romWord c (p.toNat >>> 20)) 16

/-- `Pulse(p, pw)` (R137). -/
def pulse (p pw : Word) : Int := if p.toNat < pw.toNat then pulseAmp else -pulseAmp

/-- `Tri(p)`: the sawtooth folded by exclusive-or with its sign (R138). -/
def tri (p : Word) : Int := 2 * (if 0 ≤ saw p then saw p else -saw p - 1) - 32767

/-- `BasicSample(shape, p, pw)` (R139). -/
def basicSample (c : Ctx) (shape : Shape) (p pw : Word) : Int :=
  match shape with
  | .saw => saw p
  | .sine => sine c p
  | .pulse => pulse p pw
  | .triangle => tri p

/-- The volume a voice's gain starts from: the note volume, scaled by the stage volume when a tracker instrument is
bound (R140; `47_arpeggio_and_instruments.md` R250). -/
def Voice.loudness (x : Voice) : Nat :=
  if x.trkAddr ≠ 0 then (x.volume.toNat * x.trkVol.toNat) >>> 8 else x.volume.toNat

/-- `Gain(v)` (R140). -/
def Voice.gain (x : Voice) : Nat := (x.loudness * x.tremGain.toNat) >>> 8

/-- `Contribution(s, g, E)` (R141). -/
def contribution (s : Int) (g : Nat) (e : Int) : Int := shr (s * g * shr e 20) 16

/-- `MixAdd`: one mix entry after a contribution is added (R142). -/
def mixAdd (m : Word) (s : Int) (g : Nat) (e : Int) : Word := u32 (m.toInt + contribution s g e)

/-- The loop of R144 over the remaining mix entries, from sample i and phase p on: compute the sample at the current
phase, accumulate, advance (R134). Gives the new mix entries and the final phase. -/
def phaseLoop (sample : Word → Int) (step : Word) (g : Nat) (r : Ramp) : List Word → Nat → Word → List Word × Word
  | [], _, p => ([], p)
  | m :: ms, i, p =>
    let rest := phaseLoop sample step g r ms (i + 1) (p + step)
    (mixAdd m (sample p) g (r.env i) :: rest.1, rest.2)

/-- A phase-driven renderer over a block: the mix entries it leaves and the voice with its phase advanced (R134). -/
def renderPhase (sample : Word → Int) (r : Ramp) (x : Voice) (mix : List Word) : List Word × Voice :=
  let done := phaseLoop sample x.effInc x.gain r mix 0 x.phase
  (done.1, { x with phase := done.2 })

/-- `RenderBasic` (R144). -/
def renderBasic (c : Ctx) (r : Ramp) (x : Voice) (mix : List Word) : List Word × Voice :=
  renderPhase (fun p => basicSample c x.shape p x.pulseWidth) r x mix

end Sys2Proof.Machine
end

