-- ==== Sys2Proof/Machine/Accessors.lean ====
section
/-! DEFINITION. The accessors (`49_control_commands.md` R312 to R317): each answers one word and changes nothing else. -/

namespace Sys2Proof.Machine

/-- The envelope factor of the mixing formula, `envValue >> 20` (R141, R315). -/
def Voice.envFactor (x : Voice) : Nat := x.envValue.toNat >>> 20

/-- The raw combined output level (R316). -/
def Voice.level (x : Voice) : Nat := x.gain * x.envFactor

/-- GET_FREQ (R312). -/
def execGetFreq (v : Byte) (s : State) : Host.Outcome State Fault Refusal := .next (s.answer v fun x => x.freq)

/-- GET_VOL (R313). -/
def execGetVol (v : Byte) (s : State) : Host.Outcome State Fault Refusal :=
  .next (s.answer v fun x => x.volume.setWidth 32)

/-- GET_ENV (R314). -/
def execGetEnv (v : Byte) (s : State) : Host.Outcome State Fault Refusal :=
  .next (s.answer v fun x => x.envValue.setWidth 32)

/-- GET_ENV8 (R315). -/
def execGetEnv8 (v : Byte) (s : State) : Host.Outcome State Fault Refusal :=
  .next (s.answer v fun x => BitVec.ofNat 32 (min 255 x.envFactor))

/-- GET_LVL (R316). -/
def execGetLvl (v : Byte) (s : State) : Host.Outcome State Fault Refusal :=
  .next (s.answer v fun x => BitVec.ofNat 32 x.level)

/-- GET_LVL8 (R317). -/
def execGetLvl8 (v : Byte) (s : State) : Host.Outcome State Fault Refusal :=
  .next (s.answer v fun x => BitVec.ofNat 32 (min 255 (x.level >>> 8)))

end Sys2Proof.Machine
end

