-- ==== Sys2Proof/Machine/Globals.lean ====
section
/-! DEFINITION. The global settings (`49_control_commands.md` R310, R311). -/

namespace Sys2Proof.Machine

/-- SET_RATE: a rate of 0 is ignored; the counter is kept (R310). -/
def execSetRate (hz : Word) (s : State) : Host.Outcome State Fault Refusal :=
  if hz = 0 then .next s else .next { s with ctrlRate := hz, ctrlInterval := intervalOfRate s.fs hz }

/-- SET_MVOL (R311). -/
def execSetMvol (volume : Byte) (s : State) : Host.Outcome State Fault Refusal := .next { s with master := volume }

end Sys2Proof.Machine
end

