-- ==== Sys2Proof/Machine/Noise.lean ====
section
/-! DEFINITION. noise_oscillator (`44_noise_oscillator.md` R190 to R194). -/

namespace Sys2Proof.Machine

/-- The generator step (R192). -/
def noiseNext (seed : Word) : Word := BitVec.ofNat 32 (seed.toNat * 1664525 + 1013904223)

/-- The clock: the step of the phase carries out of bit 31 (R191). -/
def noiseClock (phase step : Word) : Bool := decide (4294967296 ≤ phase.toNat + step.toNat)

/-- The held sample: the upper half of the seed, signed (R193). -/
def noiseSample (seed : Word) : Int := s16 (seed.toNat >>> 16)

/-- The loop of R193 over the remaining mix entries, from sample i on: output the held sample, then clock. Gives the new
mix entries, the final phase and the final seed. -/
def noiseLoop (step : Word) (g : Nat) (r : Ramp) : List Word → Nat → Word → Word → List Word × Word × Word
  | [], _, p, seed => ([], p, seed)
  | m :: ms, i, p, seed =>
    let rest := noiseLoop step g r ms (i + 1) (p + step) (if noiseClock p step then noiseNext seed else seed)
    (mixAdd m (noiseSample seed) g (r.env i) :: rest.1, rest.2)

/-- `RenderNoise` (R193): the plain increment, no vibrato (R194). -/
def renderNoise (r : Ramp) (x : Voice) (mix : List Word) : List Word × Voice :=
  let done := noiseLoop x.phaseInc x.gain r mix 0 x.phase x.noiseSeed
  (done.1, { x with phase := done.2.1, noiseSeed := done.2.2 })

end Sys2Proof.Machine
end

