-- ==== Sys2Proof/Machine/Sample.lean ====
section
/-! DEFINITION. sample_playback_oscillator (`43_sample_playback_oscillator.md` R165 to R179). -/

namespace Sys2Proof.Machine

/-- `PcmSample(s, k)` (`20_memory.md` R68). -/
def pcmSample (c : Ctx) (e : SmpEntry) (k : Nat) : Int := s16 (memRead c.mem (e.base.toNat + 2 * k) 2)

/-- `SampleInc(v)` (R166). -/
def sampleInc (c : Ctx) (e : SmpEntry) (x : Voice) : Word :=
  let root := if x.rootOverride ≠ 0 then x.rootOverride.toNat else e.root.toNat
  if root = 0 then 0 else BitVec.ofNat 32 ((x.freq.toNat * e.rate.toNat * 65536) / (root * c.fs))

/-- `SampleFetch(v)`: 0 at or beyond the registered length (R167). -/
def sampleFetch (c : Ctx) (e : SmpEntry) (pos : BitVec 64) : Int :=
  if pos.toNat >>> 16 < e.length.toNat then pcmSample c e (pos.toNat >>> 16) else 0

/-- The forward move shared by R170, R171 and R172: past the loop end the head goes to `turn`. -/
def headForward (hi sinc : Nat) (turn : PlayHead) (h : PlayHead) : PlayHead :=
  if hi ≤ h.pos.toNat + sinc then turn else { h with pos := BitVec.ofNat 64 (h.pos.toNat + sinc) }

/-- The backward move shared by R170, R171 and R172: below the loop start the head goes to `turn`; the difference may be
negative. -/
def headBackward (lo sinc : Nat) (turn : PlayHead) (h : PlayHead) : PlayHead :=
  if (h.pos.toNat : Int) - sinc < lo then turn else { h with pos := BitVec.ofInt 64 ((h.pos.toNat : Int) - sinc) }

/-- `lo = loopStart << 16`. -/
def Voice.loopLo (x : Voice) : Nat := x.loopStart.toNat <<< 16

/-- `hi = loopEnd << 16`. -/
def Voice.loopHi (x : Voice) : Nat := x.loopEnd.toNat <<< 16

/-- `top = (loopEnd - 1) << 16` if `loopEnd > 0`, else 0. -/
def Voice.loopTop (x : Voice) : Nat := if 0 < x.loopEnd.toNat then (x.loopEnd.toNat - 1) <<< 16 else 0

/-- One step of the play head by loop mode and direction (R173), for a sample of `length` samples (R169 to R172). -/
def sampleStep (x : Voice) (length sinc : Nat) (h : PlayHead) : PlayHead :=
  let atLo : PlayHead := { h with pos := BitVec.ofNat 64 x.loopLo }
  let atTop : PlayHead := { h with pos := BitVec.ofNat 64 x.loopTop }
  match x.loopMode, h.dir with
  | .off, _ =>
    if length <<< 16 ≤ h.pos.toNat + sinc then { h with pos := BitVec.ofNat 64 (length <<< 16), ended := true }
    else { h with pos := BitVec.ofNat 64 (h.pos.toNat + sinc) }
  | .forward, .forward => headForward x.loopHi sinc atLo h
  | .forward, .backward => headBackward x.loopLo sinc atTop h
  | .pingPong, .forward => headForward x.loopHi sinc { atTop with dir := .backward } h
  | .pingPong, .backward => headBackward x.loopLo sinc { atLo with dir := .forward } h
  | .reverse, .forward => headForward x.loopHi sinc atLo h
  | .reverse, .backward => headBackward x.loopLo sinc atTop h

/-- The loop of R177 over the remaining mix entries, from sample i on: fetch, accumulate, step (R168). A voice that
ended adds nothing to the samples that are left (R169). -/
def sampleLoop (c : Ctx) (e : SmpEntry) (x : Voice) (sinc : Nat) (r : Ramp) :
    List Word → Nat → PlayHead → List Word × PlayHead
  | [], _, h => ([], h)
  | m :: ms, i, h =>
    if h.ended then (m :: ms, h)
    else
      let rest := sampleLoop c e x sinc r ms (i + 1) (sampleStep x e.length.toNat sinc h)
      (mixAdd m (sampleFetch c e h.pos) x.gain (r.env i) :: rest.1, rest.2)

/-- Put the play head back into the voice; an ended voice is finished and Idle (R169). -/
def Voice.withHead (x : Voice) (h : PlayHead) : Voice :=
  let moved := { x with smpPos := h.pos, smpDir := h.dir }
  if h.ended then moved.finishSample else moved

/-- `RenderSample` (R177): a finished voice and a missing sample contribute nothing and do not move (R174, R175). -/
def renderSample (c : Ctx) (r : Ramp) (x : Voice) (mix : List Word) : List Word × Voice :=
  if x.smpFinished then (mix, x)
  else
    match smpEntry? c x.smpId.toNat with
    | none => (mix, x)
    | some e =>
      let done := sampleLoop c e x (sampleInc c e x).toNat r mix 0
        { pos := x.smpPos, dir := x.smpDir, ended := false }
      (done.1, x.withHead done.2)

/-- The first step of `SampleStart` (R176): the loop end clamped to the length of a registered sample (R344). -/
def clampLoopEnd (c : Ctx) (x : Voice) : Voice :=
  match c.sreg[x.smpId.toNat]? with
  | none => x
  | some e =>
    if e.valid = true ∧ (x.loopEnd = 0 ∨ e.length.toNat < x.loopEnd.toNat) then { x with loopEnd := e.length } else x

/-- The second step of `SampleStart` (R176): a loop start at or beyond the loop end becomes 0. -/
def resetLoopStart (x : Voice) : Voice :=
  if x.loopEnd.toNat ≤ x.loopStart.toNat then { x with loopStart := 0 } else x

/-- The last step of `SampleStart` (R176): the start position and direction. -/
def startHead (x : Voice) : Voice :=
  if x.loopMode = .reverse then { x with smpDir := .backward, smpPos := BitVec.ofNat 64 x.loopTop }
  else { x with smpDir := .forward, smpPos := 0 }

/-- `SampleStart(v)` (R176). -/
def sampleStart (c : Ctx) (x : Voice) : Voice := startHead (resetLoopStart (clampLoopEnd c x))

end Sys2Proof.Machine
end

