-- ==== Sys2Proof/Machine/Arpeggio.lean ====
section
/-! DEFINITION. The arpeggiator (`47_arpeggio_and_instruments.md` R235 to R238). -/

namespace Sys2Proof.Machine

/-- The stored note list after `count` new notes: the entries beyond keep their old values (R235). -/
def arpStore (old notes : List Word) : List Word := notes ++ old.drop notes.length

/-- The counter's reload value: `max(1, TicksFromMs(ms))` (R235, R236). -/
def arpTicks (c : Ctx) (ms : Word) : Word := BitVec.ofNat 32 (max 1 (ticksFromMs c.ctrlRate ms.toNat))

/-- `ArpAttach(v, count, ms, notes)` (R235): count 0 detaches, count above ARP_MAX is ignored. -/
def arpAttach (c : Ctx) (ms : Word) (notes : List Word) (x : Voice) : Voice :=
  if notes.length = 0 then { x with arpLen := 0 }
  else if arpMax < notes.length then x
  else
    { x with
      arpLen := BitVec.ofNat 4 notes.length
      arpSpeedMs := ms
      arpNotes := arpStore x.arpNotes notes
      arpIndex := 0
      arpCounter := arpTicks c ms
      freq := notes.headD 0
      phaseInc := inc c.fs (notes.headD 0) }

/-- `ArpTick(v)` (R236). -/
def arpTick (c : Ctx) (x : Voice) : Voice :=
  if x.arpLen = 0 then x
  else
    let left := x.arpCounter - 1
    if left = 0 then
      let index := (x.arpIndex.toNat + 1) % x.arpLen.toNat
      let note := x.arpNotes.getD index 0
      { x with
        arpIndex := BitVec.ofNat 3 index
        freq := note
        phaseInc := inc c.fs note
        arpCounter := arpTicks c x.arpSpeedMs }
    else { x with arpCounter := left }

end Sys2Proof.Machine
end

