-- ==== Sys2Proof/Machine/Glide.lean ====
section
/-! DEFINITION. pitch_glide_engine (`46_pitch_glide_engine.md` R220 to R226). -/

namespace Sys2Proof.Machine

/-- `GlideSetup(v, startInc, startFreq, endFreq, ms)` (R220): a duration of 0 ticks is an immediate jump that leaves the
other glide fields alone (R221). -/
def glideSetup (c : Ctx) (startInc startFreq endFreq ms : Word) (x : Voice) : Voice :=
  let endInc := inc c.fs endFreq
  let ticks := ticksFromMs c.ctrlRate ms.toNat
  if ticks = 0 then { x with phaseInc := endInc, freq := endFreq, glideActive := false }
  else
    let diff : Int := (endInc.toNat : Int) - startInc.toNat
    let delta := tdiv diff ticks
    { x with
      phaseInc := startInc
      freq := startFreq
      glideDelta := BitVec.ofInt 34 delta
      glideRem := BitVec.ofInt 34 (diff - delta * ticks)
      glideRemAcc := 0
      glideTarget := endInc
      glideTicks := BitVec.ofNat 32 ticks
      glideLeft := BitVec.ofNat 32 ticks
      glideActive := true }

/-- The Bresenham correction of one tick (R222): what is added to the increment, and the accumulator it leaves, from
the accumulator after the remainder was added. -/
def glideCorrection (acc : Int) (ticks : Nat) : Int × Int :=
  if (ticks : Int) ≤ acc.natAbs then
    if 0 < acc then (1, acc - ticks) else (-1, acc + ticks)
  else (0, acc)

/-- `GlideTick(v)` (R222). -/
def glideTick (c : Ctx) (x : Voice) : Voice :=
  if x.glideActive then
    let corr := glideCorrection (x.glideRemAcc.toInt + x.glideRem.toInt) x.glideTicks.toNat
    let next := u32 ((x.phaseInc.toNat : Int) + x.glideDelta.toInt + corr.1)
    let left := x.glideLeft - 1
    { x with
      phaseInc := next
      freq := freqFromInc c.fs next
      glideRemAcc := BitVec.ofInt 34 corr.2
      glideLeft := left
      glideActive := if left = 0 then false else true }
  else x

end Sys2Proof.Machine
end

