-- ==== Sys2Proof/Machine/Lfo.lean ====
section
/-! DEFINITION. lfo_modulator: vibrato and tremolo (`45_lfo_modulator.md` R204 to R209). -/

namespace Sys2Proof.Machine

/-- `LfoSine(p) = Rom(p >> 20) >> 17` (R204). -/
def lfoSine (c : Ctx) (p : Word) : Int := shr (romWord c (p.toNat >>> 20)) 17

/-- `VibratoTick(v)` (R205): the phase advances first, the offset follows from the new phase. -/
def vibratoTick (c : Ctx) (x : Voice) : Voice :=
  let p := x.vibPhase + x.vibRate
  { x with vibPhase := p, vibOffset := u32 (shr (x.vibDepth.toNat * lfoSine c p) 14) }

/-- `TremoloTick(v)` (R206). -/
def tremoloTick (c : Ctx) (x : Voice) : Voice :=
  let p := x.tremPhase + x.tremRate
  { x with tremPhase := p, tremGain := u8 (255 - shr (x.tremDepth.toNat * (lfoSine c p + 16384)) 15) }

end Sys2Proof.Machine
end

