-- ==== Sys2Proof/Machine/Wavetable.lean ====
section
/-! DEFINITION. wavetable_oscillator (`42_wavetable_oscillator.md` R150 to R157) and its element formats
(`20_memory.md` R69). -/

namespace Sys2Proof.Machine

/-- `WtIndex(p, size)` (R150). -/
def wtIndex (p : Word) (size : Nat) : Nat := (p.toNat * size) >>> 32

/-- The nibble of byte b that holds 4-bit element k (R69). -/
def nibbleOf (order : NibbleOrder) (b k : Nat) : Nat :=
  match order with
  | .lowFirst => if k % 2 = 0 then b % 16 else b / 16
  | .highFirst => if k % 2 = 0 then b / 16 else b % 16

/-- `WtElem`: element k of an entry, by depth (R69). A valid entry's depth is 4, 8 or 16 (R301), so the last case is
depth 4 (log 11). -/
def wtElem (c : Ctx) (e : WtEntry) (k : Nat) : Int :=
  if e.depth = 16 then s16 (memRead c.mem (e.base.toNat + 2 * k) 2)
  else if e.depth = 8 then ((memRead c.mem (e.base.toNat + k) 1 : Int) - 128) * 256
  else ((nibbleOf c.nibbleOrder (memRead c.mem (e.base.toNat + (k >>> 1)) 1) k : Int) - 8) * 4096

/-- `WtSample(w, p)`: missing data is silence (R151). -/
def wtSample (c : Ctx) (id : Nat) (p : Word) : Int :=
  match wtEntry? c id with
  | none => 0
  | some e => wtElem c e (wtIndex p e.size.toNat)

/-- `RenderWavetable` (R153); with missing data the phase still advances (R154). -/
def renderWavetable (c : Ctx) (r : Ramp) (x : Voice) (mix : List Word) : List Word × Voice :=
  renderPhase (wtSample c x.wtId.toNat) r x mix

end Sys2Proof.Machine
end

