-- ==== Sys2Proof/Machine/Tracker.lean ====
section
/-! DEFINITION. The tracker-instrument sequencer (`47_arpeggio_and_instruments.md` R239 to R252). Descriptor fields are
read from table memory whenever a rule needs them; the layout is that of `20_memory.md` R70. -/

namespace Sys2Proof.Machine

/-- A stage: its waveform code and its volume (R239). -/
abbrev Stage := Half × Byte

/-- `AttackLen(A)` (R239). -/
def attackLen (c : Ctx) (a : Nat) : Nat := min (memRead c.mem a 1) trkMax

/-- `ReleaseLen(A)` (R239). -/
def releaseLen (c : Ctx) (a : Nat) : Nat := min (memRead c.mem (a + 1) 1) trkMax

/-- `Smooth(A)`: bit 0 of the flags byte (R239). -/
def smooth (c : Ctx) (a : Nat) : Bool := decide (memRead c.mem (a + 2) 1 % 2 = 1)

/-- `SustainEnt(A)` (R239). -/
def sustainEnt (c : Ctx) (a : Nat) : Stage :=
  (BitVec.ofNat 16 (memRead c.mem (a + 4) 2), BitVec.ofNat 8 (memRead c.mem (a + 3) 1))

/-- `AttackEnt(A, i)` (R239). -/
def attackEnt (c : Ctx) (a i : Nat) : Stage :=
  (BitVec.ofNat 16 (memRead c.mem (a + 8 + 4 * i) 2), BitVec.ofNat 8 (memRead c.mem (a + 8 + 4 * i + 2) 1))

/-- `ReleaseEnt(A, i)` (R239). -/
def releaseEnt (c : Ctx) (a i : Nat) : Stage :=
  (BitVec.ofNat 16 (memRead c.mem (a + 72 + 4 * i) 2), BitVec.ofNat 8 (memRead c.mem (a + 72 + 4 * i + 2) 1))

/-- `StageMs(A)` (R239). -/
def stageMs (c : Ctx) (a : Nat) : Nat := memRead c.mem (a + 6) 2

/-- `StageTicks(A)` (R240). -/
def stageTicks (c : Ctx) (a : Nat) : Nat := max 1 (ticksFromMs c.ctrlRate (stageMs c a))

/-- Start the sequence of the current envelope state over: stage 0, tick 0. -/
def Voice.firstStage (x : Voice) : Voice := { x with trkStage := 0, trkTick := 0 }

/-- `TrkNormalise(v)` (R242), its three tests in order. -/
def trkNormalise (c : Ctx) (x : Voice) : Voice :=
  let a := x.trkAddr.toNat
  let x := if x.envState = .attack ∧ attackLen c a ≤ x.trkStage.toNat then
    { x.firstStage with envState := EnvState.sustain } else x
  let x := if x.envState = .decay then { x.firstStage with envState := EnvState.sustain } else x
  if x.envState = .release ∧ releaseLen c a ≤ x.trkStage.toNat then x.enterIdle.firstStage else x

/-- The current and the lookahead stage of a normalised voice (R243); none when it is Idle. Decay cannot occur here, it
passes through to Sustain (R242). -/
def trkStages (c : Ctx) (x : Voice) : Option (Stage × Stage) :=
  let a := x.trkAddr.toNat
  let i := x.trkStage.toNat
  match x.envState with
  | .idle => none
  | .attack => some (attackEnt c a i, if i + 1 < attackLen c a then attackEnt c a (i + 1) else sustainEnt c a)
  | .decay => none
  | .sustain => some (sustainEnt c a, sustainEnt c a)
  | .release => some (releaseEnt c a i, if i + 1 < releaseLen c a then releaseEnt c a (i + 1) else releaseEnt c a i)

/-- The morph factor of a normalised voice (R243). -/
def trkMorphOf (c : Ctx) (x : Voice) : Byte :=
  let a := x.trkAddr.toNat
  if smooth c a = true ∧ (x.envState = .attack ∨ x.envState = .release) then
    BitVec.ofNat 8 (x.trkTick.toNat * 255 / stageTicks c a)
  else 0

/-- `TrkLoad(v)` (R243). -/
def trkLoad (c : Ctx) (x : Voice) : Voice :=
  if x.trkAddr = 0 then x
  else
    let y := trkNormalise c x
    match trkStages c y with
    | none => y
    | some (cur, nxt) => { y with trkCur := cur.1, trkVol := cur.2, trkNext := nxt.1, trkMorph := trkMorphOf c y }

/-- The counters of `TrackerTick` (R245): in Attack and Release the stage holds for `StageTicks`. -/
def trkAdvance (c : Ctx) (x : Voice) : Voice :=
  if x.envState = .attack ∨ x.envState = .release then
    if stageTicks c x.trkAddr.toNat ≤ x.trkTick.toNat + 1 then { x with trkTick := 0, trkStage := x.trkStage + 1 }
    else { x with trkTick := x.trkTick + 1 }
  else x

/-- `TrackerTick(v)` (R245). -/
def trackerTick (c : Ctx) (x : Voice) : Voice :=
  if x.trkAddr = 0 then x else trkLoad c (trkAdvance c x)

/-- `SrcSample(c, p, pw)` (R246): negative codes are basic shapes, the others wavetable ids; codes below -4 are
silence. -/
def srcSample (c : Ctx) (code : Half) (p pw : Word) : Int :=
  if code.toInt < 0 then
    match shapeOfCode (-code.toInt - 1).toNat with
    | some shape => basicSample c shape p pw
    | none => 0
  else wtSample c code.toNat p

/-- `TrkSample(v, p)`: the crossfade between the current and the lookahead waveform (R247). -/
def trkSample (c : Ctx) (x : Voice) (p : Word) : Int :=
  let m : Int := x.trkMorph.toNat
  if m = 0 then srcSample c x.trkCur p x.pulseWidth
  else shr (srcSample c x.trkCur p x.pulseWidth * (256 - m) + srcSample c x.trkNext p x.pulseWidth * m) 8

/-- `RenderTracker` (R248). -/
def renderTracker (c : Ctx) (r : Ramp) (x : Voice) (mix : List Word) : List Word × Voice :=
  renderPhase (trkSample c x) r x mix

end Sys2Proof.Machine
end

