-- ==== Sys2Proof/Machine/Scheduler.lean ====
section
/-! DEFINITION. The control-rate scheduler (`45_lfo_modulator.md` R200 to R203). -/

namespace Sys2Proof.Machine

/-- `TickVoice(v)` (R203): an inactive voice is skipped whole; the five concerns run in the document's order. -/
def tickVoice (c : Ctx) (x : Voice) : Voice :=
  if x.active then trackerTick c (glideTick c (arpTick c (tremoloTick c (vibratoTick c x)))) else x

/-- `Tick()`: every voice in ascending order (R202). -/
def tick (c : Ctx) (voices : List Voice) : List Voice := voices.map (tickVoice c)

/-- The loop of R200: `while counter >= interval: Tick(); counter -= interval`. Every round takes at least 1 from the
counter (the interval is at least 1, R31), so `fuel` rounds are enough when the counter is at most `fuel` (log 12). -/
def tickLoop (c : Ctx) (interval : Nat) : Nat → Nat → List Voice → List Voice × Nat
  | 0, counter, voices => (voices, counter)
  | fuel + 1, counter, voices =>
    if interval ≤ counter then tickLoop c interval fuel (counter - interval) (tick c voices) else (voices, counter)

/-- `RunScheduler(n)` (R200): the sum of counter and n is formed without wrapping. -/
def runScheduler (n : Nat) (s : State) : State :=
  let counter := s.ctrlCounter.toNat + n
  let done := tickLoop s.ctx s.ctrlInterval.toNat counter counter s.voices
  { s with voices := done.1, ctrlCounter := BitVec.ofNat 32 done.2 }

end Sys2Proof.Machine
end

