-- ==== Sys2Proof/Machine/Mixer.lean ====
section
/-! DEFINITION. block_mixer_quantizer (`48_block_mixer_quantizer.md` R265 to R280): the RENDER command. -/

namespace Sys2Proof.Machine

/-- `RenderVoice` (R271): a tracker binding overrides the nominal kind. -/
def renderVoice (c : Ctx) (r : Ramp) (x : Voice) (mix : List Word) : List Word × Voice :=
  if x.trkAddr ≠ 0 then renderTracker c r x mix
  else
    match x.kind with
    | .basic => renderBasic c r x mix
    | .wavetable => renderWavetable c r x mix
    | .sample => renderSample c r x mix
    | .noise => renderNoise r x mix

/-- One round of the voice loop (R265, R269): an inactive voice is skipped, the envelope is advanced first, and a voice
that starts the block at 0 outside Attack is early-outed (R270). -/
def renderSlot (c : Ctx) (x : Voice) (mix : List Word) : List Word × Voice :=
  if x.active then
    let env := envBlock mix.length x
    if env.1.start = 0 ∧ x.envState ≠ .attack then (mix, env.2)
    else renderVoice c env.1 env.2 mix
  else (mix, x)

/-- The voice loop, in ascending index order (R269). -/
def renderSlots (c : Ctx) : List Voice → List Word → List Word × List Voice
  | [], mix => (mix, [])
  | x :: xs, mix =>
    let one := renderSlot c x mix
    let rest := renderSlots c xs one.1
    (rest.1, one.2 :: rest.2)

/-- The master scale (R272). -/
def masterScale (master : Byte) (x : Int) : Int := shr (x * master.toNat) 8

/-- The bit-crush: the low 8 bits cleared, rounding toward minus infinity (R274). -/
def crushBits (crush : Bool) (y : Int) : Int := if crush then y - y % 256 else y

/-- The narrowing to the output width (R275). -/
def narrow (width : OutWidth) (y : Int) : Int :=
  match width with
  | .w8 => shr y 8
  | .w16 => y
  | .w32 => y * 65536

/-- `Quantize(x, a)`: scale, clip, crush, narrow (R272 to R275). -/
def quantize (master : Byte) (width : OutWidth) (crush : Bool) (x : Int) : Int :=
  narrow width (crushBits crush (clip (masterScale master x) (-32768) 32767))

/-- `RenderArgsOk(n, a)` gives the output width of an acceptable request (R266): `1 <= n <= MAXBLK` and a width code
other than 3. -/
def renderArgs (s : State) (n : Nat) (code : BitVec 2) : Option OutWidth :=
  if 1 ≤ n ∧ n ≤ s.mix.length then outWidthOfCode code else none

/-- The voice loop over a block of n cleared mix entries; the entries from n upward are not touched (R265, R267). -/
def renderBlock (n : Nat) (s : State) : State :=
  let done := renderSlots s.ctx s.voices (List.replicate n 0)
  { s with voices := done.2, mix := done.1 ++ s.mix.drop n }

/-- `Emit(u32(Quantize(mix[i], a)))` for the n entries of the block (R265, R276). -/
def emitBlock (n : Nat) (width : OutWidth) (crush : Bool) (s : State) : State :=
  s.emit ((s.mix.take n).map fun m => u32 (quantize s.master width crush m.toInt))

/-- RENDER (R265): ticks, voices, output, in that order (R268); an unacceptable request is ignored whole (R266). -/
def execRender (n : Half) (width : BitVec 2) (crush : Bool) (s : State) : Host.Outcome State Fault Refusal :=
  match renderArgs s n.toNat width with
  | none => .next s
  | some w => .next (emitBlock n.toNat w crush (renderBlock n.toNat (runScheduler n.toNat s)))

end Sys2Proof.Machine
end

