-- ==== Sys2Proof/Machine/Motion.lean ====
section
/-! DEFINITION. The arpeggio and glide commands (`49_control_commands.md` R306 to R309). -/

namespace Sys2Proof.Machine

/-- SET_ARP (R306). -/
def execSetArp (v : Byte) (ms : Word) (notes : List Word) (s : State) : Host.Outcome State Fault Refusal :=
  .next (s.updateVoice v (arpAttach s.ctx ms notes))

/-- DET_ARP (R307). -/
def execDetArp (v : Byte) (s : State) : Host.Outcome State Fault Refusal :=
  .next (s.updateVoice v fun x => { x with arpLen := 0 })

/-- GLIDE: from the start frequency (R308). -/
def execGlide (v : Byte) (startFreq endFreq ms : Word) (s : State) : Host.Outcome State Fault Refusal :=
  .next (s.updateVoice v (glideSetup s.ctx (inc s.fs startFreq) startFreq endFreq ms))

/-- GLIDE_TO: from the voice's current increment (R309). -/
def execGlideTo (v : Byte) (endFreq ms : Word) (s : State) : Host.Outcome State Fault Refusal :=
  .next (s.updateVoice v fun x => glideSetup s.ctx x.phaseInc x.freq endFreq ms x)

end Sys2Proof.Machine
end

