-- ==== Sys2Proof/Machine/Zones.lean ====
section
/-! DEFINITION. Sample-instrument zones (`47_arpeggio_and_instruments.md` R253); the descriptor's layout is that of
`20_memory.md` R71. -/

namespace Sys2Proof.Machine

/-- The address of zone z of the descriptor at A (R253). -/
def zoneAddr (a z : Nat) : Nat := a + 12 + 16 * z

/-- The first of `count` zones from z on whose inclusive bounds hold f: its sample id and its root override (R253). -/
def zoneFind (m : Memory) (a f : Nat) : Nat → Nat → Option (Half × Word)
  | 0, _ => none
  | count + 1, z =>
    let zone := zoneAddr a z
    if memRead m zone 4 ≤ f ∧ f ≤ memRead m (zone + 4) 4 then
      some (BitVec.ofNat 16 (memRead m (zone + 8) 2), BitVec.ofNat 32 (memRead m (zone + 12) 4))
    else zoneFind m a f count (z + 1)

/-- `ZoneLookup(v, f)` (R253); a note outside every zone gets sample id 0xFFFF, which is never registered. -/
def zoneLookup (c : Ctx) (f : Word) (x : Voice) : Voice :=
  let a := x.smpInstAddr.toNat
  let found := (zoneFind c.mem a f.toNat (min (memRead c.mem a 1) zoneMax) 0).getD (0xFFFF, 0)
  { x with
    kind := .sample
    smpId := found.1
    rootOverride := found.2
    loopMode := loopModeOfCode (BitVec.ofNat 2 (memRead c.mem (a + 1) 1))
    loopStart := BitVec.ofNat 32 (memRead c.mem (a + 4) 4)
    loopEnd := BitVec.ofNat 32 (memRead c.mem (a + 8) 4) }

end Sys2Proof.Machine
end

