-- ==== Sys2Proof/Machine/Notes.lean ====
section
/-! DEFINITION. The note commands and NOP (`49_control_commands.md` R290 to R292). -/

namespace Sys2Proof.Machine

/-- NOP: nothing (R290). -/
def execNop (s : State) : Host.Outcome State Fault Refusal := .next s

/-- The tracker part of NOTE_ON and NOTE_OFF: stage 0, tick 0, `TrkLoad` (R291, R292). -/
def restartTracker (c : Ctx) (x : Voice) : Voice := if x.trkAddr ≠ 0 then trkLoad c x.firstStage else x

/-- What NOTE_ON does to its voice (R291). -/
def noteOnVoice (c : Ctx) (volume : Byte) (freq : Word) (x : Voice) : Voice :=
  let x := { x.claim with freq := freq, phaseInc := inc c.fs freq, volume := volume }
  let x := if x.smpInstAddr ≠ 0 then zoneLookup c freq x else x
  let x := if x.kind = .sample then sampleStart c x else x
  restartTracker c x

/-- NOTE_ON (R291). -/
def execNoteOn (v : Byte) (volume : Byte) (freq : Word) (s : State) : Host.Outcome State Fault Refusal :=
  .next (s.updateVoice v (noteOnVoice s.ctx volume freq))

/-- What NOTE_OFF does to its voice: nothing to an inactive one (R292). -/
def noteOffVoice (c : Ctx) (x : Voice) : Voice :=
  if x.active then restartTracker c { x with envState := .release } else x

/-- NOTE_OFF (R292). -/
def execNoteOff (v : Byte) (s : State) : Host.Outcome State Fault Refusal :=
  .next (s.updateVoice v (noteOffVoice s.ctx))

end Sys2Proof.Machine
end

