-- ==== Sys2Proof/Machine/Params.lean ====
section
/-! DEFINITION. The per-voice parameter commands (`49_control_commands.md` R293 to R300). -/

namespace Sys2Proof.Machine

/-- SET_FREQ: it cancels a glide (R293). -/
def execSetFreq (v : Byte) (freq : Word) (s : State) : Host.Outcome State Fault Refusal :=
  .next (s.updateVoice v fun x => { x with freq := freq, phaseInc := inc s.fs freq, glideActive := false })

/-- SET_VOL (R294). -/
def execSetVol (v : Byte) (volume : Byte) (s : State) : Host.Outcome State Fault Refusal :=
  .next (s.updateVoice v fun x => { x with volume := volume })

/-- The waveform a code selects: codes 0 to 3 a basic shape, code 4 noise, any other code nothing (R295). -/
def selectWave (code : Half) (x : Voice) : Voice :=
  match shapeOfCode code.toNat with
  | some shape => { x with kind := .basic, shape := shape }
  | none => if code = 4 then { x with kind := .noise } else x

/-- SET_WAVE (R295). -/
def execSetWave (v : Byte) (code : Half) (s : State) : Host.Outcome State Fault Refusal :=
  .next (s.updateVoice v (selectWave code))

/-- SET_PW (R296). -/
def execSetPw (v : Byte) (threshold : Word) (s : State) : Host.Outcome State Fault Refusal :=
  .next (s.updateVoice v fun x => { x with pulseWidth := threshold })

/-- SET_ENV: the sustain level is clamped to ENV_MAX (R297). -/
def execSetEnv (v : Byte) (attack decay sustain release : Word) (s : State) : Host.Outcome State Fault Refusal :=
  .next (s.updateVoice v fun x =>
    { x with rateAttack := attack, rateDecay := decay, sustain := sustainOperand sustain, rateRelease := release })

/-- SET_VIB (R298). -/
def execSetVib (v : Byte) (rate depth : Word) (s : State) : Host.Outcome State Fault Refusal :=
  .next (s.updateVoice v fun x => { x with vibRate := rate, vibDepth := depth })

/-- SET_TREM (R299). -/
def execSetTrem (v : Byte) (depth : Byte) (rate : Word) (s : State) : Host.Outcome State Fault Refusal :=
  .next (s.updateVoice v fun x => { x with tremDepth := depth, tremRate := rate })

/-- SET_WT: the id is stored unchecked (R300). -/
def execSetWt (v : Byte) (id : Half) (s : State) : Host.Outcome State Fault Refusal :=
  .next (s.updateVoice v fun x => { x with kind := .wavetable, wtId := id })

end Sys2Proof.Machine
end

