-- ==== Sys2Proof/Machine/Sources.lean ====
section
/-! DEFINITION. The registry, binding and sample-selection commands (`49_control_commands.md` R301 to R305, R318). -/

namespace Sys2Proof.Machine

/-- REG_WT: ignored when the id is not below NW or the depth is not 4, 8 or 16 (R301). -/
def execRegWt (depth : Byte) (id : Half) (base size : Word) (s : State) : Host.Outcome State Fault Refusal :=
  match depthOperand depth with
  | none => .next s
  | some d => .next { s with wreg := s.wreg.set id.toNat { valid := true, base := base, size := size, depth := d } }

/-- What BIND_TRK does to its voice (R302). -/
def bindTrkVoice (c : Ctx) (addr : Word) (x : Voice) : Voice :=
  trkLoad c { x with trkAddr := addr, smpInstAddr := 0, trkStage := 0, trkTick := 0 }

/-- BIND_TRK (R302). -/
def execBindTrk (v : Byte) (addr : Word) (s : State) : Host.Outcome State Fault Refusal :=
  .next (s.updateVoice v (bindTrkVoice s.ctx addr))

/-- BIND_SMP (R303). -/
def execBindSmp (v : Byte) (addr : Word) (s : State) : Host.Outcome State Fault Refusal :=
  .next (s.updateVoice v fun x => { x with smpInstAddr := addr, trkAddr := 0 })

/-- UNBIND (R304). -/
def execUnbind (v : Byte) (s : State) : Host.Outcome State Fault Refusal :=
  .next (s.updateVoice v fun x => { x with trkAddr := 0, smpInstAddr := 0 })

/-- SET_SMP: id and bounds are stored unchecked (R305). -/
def execSetSmp (v : Byte) (id : Half) (mode : LoopMode) (loopStart loopEnd : Word) (s : State) :
    Host.Outcome State Fault Refusal :=
  .next (s.updateVoice v fun x =>
    { x with
      kind := .sample, smpId := id, loopMode := mode, loopStart := loopStart, loopEnd := loopEnd, rootOverride := 0 })

/-- REG_SMP: ignored when the id is not below NS (R318). -/
def execRegSmp (id : Half) (base length rate root : Word) (s : State) : Host.Outcome State Fault Refusal :=
  .next { s with
    sreg := s.sreg.set id.toNat { valid := true, base := base, length := length, rate := rate, root := root } }

end Sys2Proof.Machine
end

