-- ==== Sys2Proof/Machine/Dispatch.lean ====
section
/-! DEFINITION. The execution of one command: one arm per constructor of Instr. -/

namespace Sys2Proof.Machine

def exec (i : Instr) (s : State) : Host.Outcome State Fault Refusal :=
  match i with
  | .nop => Sys2Proof.Machine.execNop s
  | .noteOn v volume freq => Sys2Proof.Machine.execNoteOn v volume freq s
  | .noteOff v => Sys2Proof.Machine.execNoteOff v s
  | .setFreq v freq => Sys2Proof.Machine.execSetFreq v freq s
  | .setVol v volume => Sys2Proof.Machine.execSetVol v volume s
  | .setWave v code => Sys2Proof.Machine.execSetWave v code s
  | .setPw v threshold => Sys2Proof.Machine.execSetPw v threshold s
  | .setEnv v attack decay sustain release => Sys2Proof.Machine.execSetEnv v attack decay sustain release s
  | .setVib v rate depth => Sys2Proof.Machine.execSetVib v rate depth s
  | .setTrem v depth rate => Sys2Proof.Machine.execSetTrem v depth rate s
  | .setWt v id => Sys2Proof.Machine.execSetWt v id s
  | .regWt depth id base size => Sys2Proof.Machine.execRegWt depth id base size s
  | .bindTrk v addr => Sys2Proof.Machine.execBindTrk v addr s
  | .bindSmp v addr => Sys2Proof.Machine.execBindSmp v addr s
  | .unbind v => Sys2Proof.Machine.execUnbind v s
  | .setSmp v id mode loopStart loopEnd => Sys2Proof.Machine.execSetSmp v id mode loopStart loopEnd s
  | .setArp v ms notes => Sys2Proof.Machine.execSetArp v ms notes s
  | .detArp v => Sys2Proof.Machine.execDetArp v s
  | .glide v startFreq endFreq ms => Sys2Proof.Machine.execGlide v startFreq endFreq ms s
  | .glideTo v endFreq ms => Sys2Proof.Machine.execGlideTo v endFreq ms s
  | .setRate hz => Sys2Proof.Machine.execSetRate hz s
  | .setMvol volume => Sys2Proof.Machine.execSetMvol volume s
  | .getFreq v => Sys2Proof.Machine.execGetFreq v s
  | .getVol v => Sys2Proof.Machine.execGetVol v s
  | .getEnv v => Sys2Proof.Machine.execGetEnv v s
  | .getEnv8 v => Sys2Proof.Machine.execGetEnv8 v s
  | .getLvl v => Sys2Proof.Machine.execGetLvl v s
  | .getLvl8 v => Sys2Proof.Machine.execGetLvl8 v s
  | .regSmp id base length rate root => Sys2Proof.Machine.execRegSmp id base length rate root s
  | .render n width crush => Sys2Proof.Machine.execRender n width crush s

end Sys2Proof.Machine
end

