-- ==== Sys2Proof/Machine/Step.lean ====
section
/-! DEFINITION. One step: the engine takes the next command off the command port and executes it
(`20_memory.md` R73; `30_encoding.md` R91). -/

namespace Sys2Proof.Machine

/-- One step. A header with an undefined opcode is a one-word command that is ignored (R95). Until all the words of a
command have arrived nothing is executed and the state is unchanged (R91): the block waits and holds its state
(`60_exceptions.md` R355; log 5). -/
def step (s : State) : Host.Outcome State Fault Refusal :=
  match decode s.cmd with
  | .instr i rest => exec i { s with cmd := rest }
  | .undefinedOpcode _ rest => .next { s with cmd := rest }
  | .incomplete => .next s

/-- The words of one command, given as a number of `nbits` bits, put at the front of the command stream: exactly as many
as its header asks for (R91). -/
def State.withFetchWord (s : State) (nbits w : Nat) : State :=
  let ws := tableWords nbits w
  { s with cmd := ws.take (1 + operandCount (ws.headD 0)) ++ s.cmd }

end Sys2Proof.Machine
end

