-- ==== Sys2Proof/Safety.lean ====
section
/-! DEFINITION. What a sound state is: the invariants of `10_state.md` R37 and of the field tables R28 to R32, and the
parameter constraints of `00_scope.md` R6. Claims about the machine use these names. -/

namespace Sys2Proof.Machine

/-- The invariants of one voice slot between commands. -/
structure Voice.Inv (x : Voice) : Prop where
  /-- An inactive voice is Idle and an active one is not (R37; `92_eei_decisions.md` D42). -/
  inactive_iff_idle : x.active = false ↔ x.envState = .idle
  /-- "Idle is value forced to 0" (R37). -/
  idle_value : x.envState = .idle → x.envValue = 0
  /-- "envelope value is always in [0, ENV_MAX]" (R37). -/
  env_le : x.envValue.toNat ≤ envMax
  /-- `sustain <= ENV_MAX` (R37). -/
  sustain_le : x.sustain.toNat ≤ envMax
  /-- `trkAddr = 0 or smpInstAddr = 0` (R30). -/
  one_binding : x.trkAddr = 0 ∨ x.smpInstAddr = 0
  /-- A finished sample's voice is inactive (`43_sample_playback_oscillator.md` R174). -/
  finished_inactive : x.smpFinished = true → x.active = false
  /-- The arpeggio's list has ARP_MAX entries and at most that many are used (R29). -/
  arp_len : x.arpLen.toNat ≤ arpMax
  arp_notes : x.arpNotes.length = arpMax
  /-- `arpIndex < arpLen` and `arpCounter >= 1` when `arpLen > 0` (R37). -/
  arp_index : 0 < x.arpLen.toNat → x.arpIndex.toNat < x.arpLen.toNat
  arp_counter : 0 < x.arpLen.toNat → 1 ≤ x.arpCounter.toNat
  /-- `tremGain` stays in 1 .. 255 (`45_lfo_modulator.md` R206). -/
  trem_gain : 1 ≤ x.tremGain.toNat
  /-- `trkStage` is 0 .. TRK_MAX and `trkMorph` 0 .. 254 (R30). -/
  trk_stage : x.trkStage.toNat ≤ trkMax
  trk_morph : x.trkMorph.toNat ≤ 254
  /-- While a glide is active, ticks remain, and remainder and accumulator are below the tick count (R28). -/
  glide_left : x.glideActive = true → 1 ≤ x.glideLeft.toNat ∧ x.glideLeft.toNat ≤ x.glideTicks.toNat
  glide_rem : x.glideActive = true → x.glideRem.toInt.natAbs < x.glideTicks.toNat
  glide_acc : x.glideActive = true → x.glideRemAcc.toInt.natAbs < x.glideTicks.toNat

/-- The invariants of the whole state between commands. -/
structure State.Inv (s : State) : Prop where
  /-- The parameters meet their constraints (`00_scope.md` R6). -/
  config : s.config.Valid
  /-- The control rate is at least 1 and the interval follows from it (R31; `45_lfo_modulator.md` R201). -/
  rate : 1 ≤ s.ctrlRate.toNat
  interval : s.ctrlInterval = intervalOfRate s.fs s.ctrlRate
  /-- A registered wavetable has depth 4, 8 or 16 (R32; `49_control_commands.md` R301). -/
  depth : ∀ e ∈ s.wreg, e.valid = true → e.depth = 4 ∨ e.depth = 8 ∨ e.depth = 16
  /-- Table memory is in its canonical form. -/
  memory : s.mem.wf = true
  /-- Every voice slot meets its invariants. -/
  voices : ∀ x ∈ s.voices, x.Inv

/-- A state the machine can come to from a state, by steps and by the inputs it accepts between commands. -/
inductive Reaches (s : State) : State → Prop where
  | refl : Reaches s s
  | step {t u : State} : Reaches s t → step t = .next u → Reaches s u
  | send {t : State} (ws : List Word) : Reaches s t → Reaches s (t.send ws)
  | write {t : State} (a : Word) (b : Byte) : Reaches s t → Reaches s (t.platformWrite a b)
  | reset {t : State} : Reaches s t → Reaches s t.resetInput

end Sys2Proof.Machine
end

