-- ==== Sys2Proof/WellFormed.lean ====
section
/-! DEFINITION. Which commands have an encoding. Every operand has the width of its field, so the one thing a command
can get wrong is the length of SET_ARP's note list: the count is the 8-bit field `imm[7:0]` (`30_encoding.md` R92). -/

namespace Sys2Proof

/-- SET_ARP carries at most 255 notes (R92); every other command is well formed. -/
def wellFormed : Instr → Bool
  | .setArp _ _ notes => decide (notes.length ≤ 255)
  | .nop => true
  | .noteOn _ _ _ => true
  | .noteOff _ => true
  | .setFreq _ _ => true
  | .setVol _ _ => true
  | .setWave _ _ => true
  | .setPw _ _ => true
  | .setEnv _ _ _ _ _ => true
  | .setVib _ _ _ => true
  | .setTrem _ _ _ => true
  | .setWt _ _ => true
  | .regWt _ _ _ _ => true
  | .bindTrk _ _ => true
  | .bindSmp _ _ => true
  | .unbind _ => true
  | .setSmp _ _ _ _ _ => true
  | .detArp _ => true
  | .glide _ _ _ _ => true
  | .glideTo _ _ _ => true
  | .setRate _ => true
  | .setMvol _ => true
  | .getFreq _ => true
  | .getVol _ => true
  | .getEnv _ => true
  | .getEnv8 _ => true
  | .getLvl _ => true
  | .getLvl8 _ => true
  | .regSmp _ _ _ _ _ => true
  | .render _ _ _ => true

end Sys2Proof
end

