-- ==== Sys2Proof/Certificates/Slice0/Obligations.lean ====
section
/-! DEFINITION. The statements about the model, from the numbered rules of the spec. OBLIGATIONS.json lists them. -/

section

open Sys2Proof Sys2Proof.Machine

/-! ## Encoding -/

/-- Decode and encode agree on every well-formed command, every operand at every value (`30_encoding.md` R90 to R93). -/
def Obligations.DecodeInvertsEncode : Prop :=
  ∀ (i : Instr) (rest : List Word), wellFormed i = true → decode (encode i ++ rest) = .instr i rest

/-- R91: the number of operand words is the table's; with fewer words waiting the state is unchanged; with enough, the
decoder takes exactly that many, whether it finds a command or an undefined opcode, and execution leaves the rest of the
stream alone. -/
def Obligations.LengthRule : Prop :=
  ∀ (h : Word) (ws : List Word),
    (operandCount h =
      if h.toNat % 256 ∈ [0x01, 0x03, 0x06, 0x09, 0x0C, 0x0D, 0x14] then 1
      else if h.toNat % 256 ∈ [0x08, 0x0B, 0x13] then 2
      else if h.toNat % 256 ∈ [0x0F, 0x12] then 3
      else if h.toNat % 256 ∈ [0x07, 0x1C] then 4
      else if h.toNat % 256 = 0x10 then 1 + h.toNat / 65536 % 256
      else 0) ∧
    (ws.length < operandCount h → ∀ s : State, s.cmd = h :: ws → step s = .next s) ∧
    (operandCount h ≤ ws.length →
      ((∃ i, wellFormed i = true ∧ decode (h :: ws) = .instr i (ws.drop (operandCount h))) ∨
        (0x1E ≤ h.toNat % 256 ∧
          decode (h :: ws) = .undefinedOpcode (h.setWidth 8) (ws.drop (operandCount h)))) ∧
      ∀ s t : State, s.cmd = h :: ws → step s = .next t → t.cmd = ws.drop (operandCount h))

/-- R96: the header and operand bits the tables call ignored or unused change nothing in what is decoded. -/
def Obligations.IgnoredBitsHaveNoEffect : Prop :=
  ∀ (h h' : Word) (ws : List Word), h.toNat % 256 = h'.toNat % 256 →
    (h.toNat % 256 ∈ [0x00, 0x14] ∨ 0x1E ≤ h.toNat % 256 → decode (h :: ws) = decode (h' :: ws)) ∧
    (h.toNat % 256 ∈ [0x02, 0x03, 0x06, 0x07, 0x08, 0x0C, 0x0D, 0x0E, 0x11, 0x12, 0x13, 0x16, 0x17, 0x18, 0x19, 0x1A,
        0x1B] → headerA h = headerA h' → decode (h :: ws) = decode (h' :: ws)) ∧
    (h.toNat % 256 ∈ [0x01, 0x04, 0x09, 0x10] → headerA h = headerA h' → headerImmLow h = headerImmLow h' →
      decode (h :: ws) = decode (h' :: ws)) ∧
    (h.toNat % 256 = 0x15 → headerImmLow h = headerImmLow h' → decode (h :: ws) = decode (h' :: ws)) ∧
    (h.toNat % 256 = 0x1C → headerImm h = headerImm h' → decode (h :: ws) = decode (h' :: ws)) ∧
    (h.toNat % 256 = 0x1D → headerImm h = headerImm h' → h.extractLsb' 8 3 = h'.extractLsb' 8 3 →
      decode (h :: ws) = decode (h' :: ws)) ∧
    (h.toNat % 256 = 0x0F → ∀ w w' : Word, w.toNat % 4 = w'.toNat % 4 → decode (h :: w :: ws) = decode (h :: w' :: ws))

/-- Words written out from the spec's encodings decode to the commands they stand for (the examples of R291, R297, R301,
R305, R306, R308, R310 and R364), and the loop-mode codes 0, 2 and 3 are Off, Ping-Pong and Reverse (R92; `10_state.md`
R25). -/
def Obligations.SpecWordsDecode : Prop :=
  decode [0x0003000F, 0, 200, 800] = .instr (.setSmp 0 3 .off 200 800) [] ∧
  decode [0x0003000F, 2, 200, 800] = .instr (.setSmp 0 3 .pingPong 200 800) [] ∧
  decode [0x0003000F, 3, 200, 800] = .instr (.setSmp 0 3 .reverse 200 800) [] ∧
  decode [0x00C80201, 0x0000ABE0] = .instr (.noteOn 2 200 44000) [] ∧
  decode [0x00000007, 0x000F4240, 0x0007A120, 0x08000000, 0x000F4240] =
    .instr (.setEnv 0 1000000 500000 134217728 1000000) [] ∧
  decode [0x0005100B, 0x00001000, 0x00000064] = .instr (.regWt 16 5 0x1000 100) [] ∧
  decode [0x0003000F, 0x00000001, 0x000000C8, 0x00000320] = .instr (.setSmp 0 3 .forward 200 800) [] ∧
  decode [0x00030010, 0x0000000A, 0x0000ABE0, 0x0000D6D8, 0x000101D0] =
    .instr (.setArp 0 10 [44000, 55000, 66000]) [] ∧
  decode [0x00000012, 0x000157C0, 0x00003039, 0x00000046] = .instr (.glide 0 88000 12345 70) [] ∧
  decode [0x00000014, 0x000000C8] = .instr (.setRate 200) [] ∧
  decode [0x0004011D, 0x00800304] = .instr (.render 4 1 false) [0x00800304]

/-! ## One step -/

/-- When the waiting words decode to a command, a step executes that command with its words taken off the stream and
adds nothing of its own (`20_memory.md` R73). -/
def Obligations.StepRunsDecodedCommand : Prop :=
  ∀ (s : State) (i : Instr) (rest : List Word), decode s.cmd = .instr i rest → step s = exec i { s with cmd := rest }

/-- R95, R290: a header with an undefined opcode is a one-word command that is ignored, and NOP does nothing. -/
def Obligations.NopAndUndefinedOpcodes : Prop :=
  (∀ (s : State) (h : Word) (rest : List Word), s.cmd = h :: rest → 0x1E ≤ h.toNat % 256 →
    step s = .next { s with cmd := rest }) ∧
  ∀ s : State, exec .nop s = .next s

/-- No command and no step can trap, fault or abort: each answers a next state (`60_exceptions.md` R340,
`70_reset_and_hazards.md` R381). -/
def Obligations.EveryCommandCompletes : Prop :=
  (∀ (i : Instr) (s : State), ∃ t, exec i s = .next t) ∧ ∀ s : State, ∃ t, step s = .next t

/-! ## Invariants and frames of the whole machine -/

/-- Every step keeps the invariants of `10_state.md` R37 and of the field tables R28 to R32. -/
def Obligations.StepKeepsInv : Prop := ∀ s t : State, s.Inv → step s = .next t → t.Inv

/-- The state right after reset meets the invariants, with any parameters R6 allows and any table memory in canonical
form. -/
def Obligations.ResetMeetsInv : Prop :=
  (∀ (c : Config) (m : Memory), c.Valid → m.wf = true → (State.resetWith c m).Inv) ∧ State.reset.Inv

/-- R98: a GET command appends exactly one word to the response stream, no other command appends to it. -/
def Obligations.OnlyGetAnswers : Prop :=
  ∀ (i : Instr) (s t : State), exec i s = .next t →
    (i.isGet = true → ∃ w : Word, t.resp = s.resp ++ [w]) ∧ (i.isGet = false → t.resp = s.resp)

/-- R99: an accepted RENDER of n samples appends exactly n words to the output stream, each a sample within the range of
the selected width, sign-extended. -/
def Obligations.RenderEmitsSamples : Prop :=
  ∀ (s : State) (n : Half) (width : BitVec 2) (crush : Bool),
    1 ≤ n.toNat → n.toNat ≤ s.mix.length → width ≠ 3 →
    ∃ t ys, exec (.render n width crush) s = .next t ∧ t.out = s.out ++ List.map (BitVec.ofInt 32) ys ∧
      ys.length = n.toNat ∧ ∀ y ∈ ys,
        (width = 0 → -128 ≤ y ∧ y ≤ 127) ∧ (width = 1 → -32768 ≤ y ∧ y ≤ 32767) ∧
        (width = 2 → -2147483648 ≤ y ∧ y ≤ 2147483647)

/-- Which command may write which state outside the voice file (`10_state.md` R40); no command writes table memory, the
parameters or the words still waiting (`20_memory.md` R61, R77). -/
def Obligations.GlobalsHaveOneWriter : Prop :=
  ∀ (i : Instr) (s t : State), exec i s = .next t →
    t.mem = s.mem ∧ t.config = s.config ∧ t.cmd = s.cmd ∧
    ((∀ volume, i ≠ .setMvol volume) → t.master = s.master) ∧
    ((∀ hz, i ≠ .setRate hz) → t.ctrlRate = s.ctrlRate ∧ t.ctrlInterval = s.ctrlInterval) ∧
    ((∀ id base length rate root, i ≠ .regSmp id base length rate root) → t.sreg = s.sreg) ∧
    ((∀ depth id base size, i ≠ .regWt depth id base size) → t.wreg = s.wreg) ∧
    ((∀ n width crush, i ≠ .render n width crush) →
      t.ctrlCounter = s.ctrlCounter ∧ t.mix = s.mix ∧ t.out = s.out) ∧
    (i.voiceOperand = none → (∀ n width crush, i ≠ .render n width crush) → t.voices = s.voices)

/-- A command with a voice operand leaves every other voice as it was: there is no cross-voice interaction
(`10_state.md` R20). -/
def Obligations.VoiceCommandKeepsOthers : Prop :=
  ∀ (i : Instr) (v : Byte) (s t : State), i.voiceOperand = some v → exec i s = .next t →
    t.voices.length = s.voices.length ∧ ∀ j, j ≠ v.toNat → t.voices[j]? = s.voices[j]?

/-- R97: with a voice index not below NV a command is ignored, but a GET command answers with the word 0. -/
def Obligations.OutOfRangeVoiceIgnored : Prop :=
  ∀ (i : Instr) (v : Byte) (s : State), i.voiceOperand = some v → s.voices.length ≤ v.toNat →
    (i.isGet = false → exec i s = .next s) ∧ (i.isGet = true → exec i s = .next { s with resp := s.resp ++ [0] })

/-- One voice through a whole command depends on its own state, the registers and the memory, on no other voice and not
on the mix buffer (`10_state.md` R20, `45_lfo_modulator.md` R202). -/
def Obligations.VoicesDoNotInteract : Prop :=
  ∀ (i : Instr) (s s' t t' : State) (j : Nat),
    s.ctx = s'.ctx → s.ctrlInterval = s'.ctrlInterval → s.ctrlCounter = s'.ctrlCounter →
    s.mix.length = s'.mix.length → s.voices.length = s'.voices.length → s.voices[j]? = s'.voices[j]? →
    exec i s = .next t → exec i s' = .next t' → t.voices[j]? = t'.voices[j]?

/-! ## Notes -/

/-- NOTE_ON in its order: the fields of the note, the zone of a sample instrument, the start of a sample, the restart of
a tracker instrument (R291). -/
def Obligations.NoteOnResult : Prop :=
  ∀ (s : State) (v volume : Byte) (freq : Word) (x : Voice), s.voices[v.toNat]? = some x →
    ∃ a b c d : Voice,
      a = { x with freq := freq, phaseInc := BitVec.ofNat 32 (freq.toNat * 4294967296 / (s.fs * 100)), volume := volume,
                   active := true, envState := .attack, glideActive := false, smpFinished := false } ∧
      b = (if a.smpInstAddr ≠ 0 then zoneLookup s.ctx freq a else a) ∧
      c = (if b.kind = .sample then sampleStart s.ctx b else b) ∧
      d = (if c.trkAddr ≠ 0 then trkLoad s.ctx { c with trkStage := 0, trkTick := 0 } else c) ∧
      exec (.noteOn v volume freq) s = .next { s with voices := s.voices.set v.toNat d }

/-- What NOTE_ON does not write (R291): the envelope value, the oscillator phase, the noise seed, the LFOs, the
arpeggio, the rates, the bindings, and the waveform selection of a voice without a sample instrument; and the voice is
active afterwards. -/
def Obligations.NoteOnFrame : Prop :=
  ∀ (s t : State) (v volume : Byte) (freq : Word) (x y : Voice), s.voices[v.toNat]? = some x →
    exec (.noteOn v volume freq) s = .next t → t.voices[v.toNat]? = some y →
    y.active = true ∧
    y = { x with
      active := y.active, envState := y.envState, freq := y.freq, phaseInc := y.phaseInc, volume := y.volume,
      kind := y.kind, smpId := y.smpId, loopMode := y.loopMode, loopStart := y.loopStart, loopEnd := y.loopEnd,
      smpPos := y.smpPos, smpDir := y.smpDir, smpFinished := y.smpFinished, rootOverride := y.rootOverride,
      glideActive := y.glideActive, trkStage := y.trkStage, trkTick := y.trkTick, trkCur := y.trkCur,
      trkNext := y.trkNext, trkMorph := y.trkMorph, trkVol := y.trkVol } ∧
    (x.smpInstAddr = 0 →
      y.kind = x.kind ∧ y.smpId = x.smpId ∧ y.loopMode = x.loopMode ∧ y.rootOverride = x.rootOverride) ∧
    (x.smpInstAddr = 0 → x.kind ≠ .sample →
      y.loopStart = x.loopStart ∧ y.loopEnd = x.loopEnd ∧ y.smpPos = x.smpPos ∧ y.smpDir = x.smpDir) ∧
    (x.trkAddr = 0 →
      y.envState = .attack ∧ y.trkStage = x.trkStage ∧ y.trkTick = x.trkTick ∧ y.trkCur = x.trkCur ∧
      y.trkNext = x.trkNext ∧ y.trkMorph = x.trkMorph ∧ y.trkVol = x.trkVol)

/-- R292: NOTE_OFF puts an active voice into Release and restarts the sequence of a tracker voice; an inactive voice is
left alone. -/
def Obligations.NoteOffResult : Prop :=
  ∀ (s : State) (v : Byte) (x : Voice), s.voices[v.toNat]? = some x →
    (x.active = false → exec (.noteOff v) s = .next s) ∧
    (x.active = true → x.trkAddr = 0 →
      exec (.noteOff v) s = .next { s with voices := s.voices.set v.toNat { x with envState := .release } }) ∧
    (x.active = true → x.trkAddr ≠ 0 →
      exec (.noteOff v) s = .next { s with
        voices := s.voices.set v.toNat (trkLoad s.ctx { x with envState := .release, trkStage := 0, trkTick := 0 }) })

/-! ## Per-voice parameters -/

/-- R294: SET_VOL writes the volume, GET_VOL then responds it, and nothing but NOTE_ON and SET_VOL writes `volume`. -/
def Obligations.VolumeIsIdempotent : Prop :=
  ∀ (s : State) (v volume : Byte) (x : Voice), s.voices[v.toNat]? = some x →
    (∃ t, t = { s with voices := s.voices.set v.toNat { x with volume := volume } } ∧
      exec (.setVol v volume) s = .next t ∧
      exec (.getVol v) t = .next { t with resp := t.resp ++ [volume.setWidth 32] }) ∧
    ∀ (i : Instr) (t : State), (∀ w f, i ≠ .noteOn v w f) → (∀ w, i ≠ .setVol v w) → exec i s = .next t →
      ∃ y, t.voices[v.toNat]? = some y ∧ y.volume = x.volume

/-- R295: codes 0 to 3 select a basic shape, code 4 noise, any other code nothing. -/
def Obligations.SetWaveResult : Prop :=
  ∀ (s : State) (v : Byte) (code : Half) (x : Voice), s.voices[v.toNat]? = some x →
    (code.toNat = 0 → exec (.setWave v code) s =
      .next { s with voices := s.voices.set v.toNat { x with kind := .basic, shape := .saw } }) ∧
    (code.toNat = 1 → exec (.setWave v code) s =
      .next { s with voices := s.voices.set v.toNat { x with kind := .basic, shape := .sine } }) ∧
    (code.toNat = 2 → exec (.setWave v code) s =
      .next { s with voices := s.voices.set v.toNat { x with kind := .basic, shape := .pulse } }) ∧
    (code.toNat = 3 → exec (.setWave v code) s =
      .next { s with voices := s.voices.set v.toNat { x with kind := .basic, shape := .triangle } }) ∧
    (code.toNat = 4 → exec (.setWave v code) s =
      .next { s with voices := s.voices.set v.toNat { x with kind := .noise } }) ∧
    (4 < code.toNat → exec (.setWave v code) s = .next s)

/-- R293, R296, R298, R299, R300, R305: SET_FREQ writes the frequency and the increment and cancels a glide; SET_PW,
SET_VIB, SET_TREM, SET_WT and SET_SMP store their operands, unchecked, and nothing else; SET_SMP also clears the root
override and leaves the play position alone. -/
def Obligations.ParameterResults : Prop :=
  ∀ (s : State) (v depth8 : Byte) (id : Half) (mode : LoopMode) (freq rate depth loopStart loopEnd : Word) (x : Voice),
    s.voices[v.toNat]? = some x →
    exec (.setFreq v freq) s = .next { s with
      voices := s.voices.set v.toNat
        { x with freq := freq, phaseInc := BitVec.ofNat 32 (freq.toNat * 4294967296 / (s.fs * 100)),
                 glideActive := false } } ∧
    exec (.setPw v depth) s = .next { s with voices := s.voices.set v.toNat { x with pulseWidth := depth } } ∧
    exec (.setVib v rate depth) s =
      .next { s with voices := s.voices.set v.toNat { x with vibRate := rate, vibDepth := depth } } ∧
    exec (.setTrem v depth8 rate) s =
      .next { s with voices := s.voices.set v.toNat { x with tremDepth := depth8, tremRate := rate } } ∧
    exec (.setWt v id) s =
      .next { s with voices := s.voices.set v.toNat { x with kind := .wavetable, wtId := id } } ∧
    exec (.setSmp v id mode loopStart loopEnd) s = .next { s with
      voices := s.voices.set v.toNat
        { x with kind := .sample, smpId := id, loopMode := mode, loopStart := loopStart, loopEnd := loopEnd,
                 rootOverride := 0 } }

/-- R297: SET_ENV stores the three rates and the sustain level, the level clamped to ENV_MAX. -/
def Obligations.SetEnvResult : Prop :=
  ∀ (s : State) (v : Byte) (attack decay sustain release : Word) (x : Voice), s.voices[v.toNat]? = some x →
    ∃ level : BitVec 29, level.toNat = min sustain.toNat 268435456 ∧
      exec (.setEnv v attack decay sustain release) s = .next { s with
        voices := s.voices.set v.toNat
          { x with rateAttack := attack, rateDecay := decay, sustain := level, rateRelease := release } }

/-! ## Registries and sources -/

/-- R301, R318: a registration replaces the entry of its id and nothing else; an id out of range and a depth other than
4, 8 or 16 make the command a no-op. -/
def Obligations.RegistrationResults : Prop :=
  ∀ (s : State) (depth : Byte) (id : Half) (base length rate root : Word),
    (id.toNat < s.wreg.length → depth = 4 ∨ depth = 8 ∨ depth = 16 →
      exec (.regWt depth id base length) s = .next { s with
        wreg := s.wreg.set id.toNat
          { valid := true, base := base, size := length, depth := BitVec.ofNat 5 depth.toNat } }) ∧
    (s.wreg.length ≤ id.toNat ∨ (depth ≠ 4 ∧ depth ≠ 8 ∧ depth ≠ 16) →
      exec (.regWt depth id base length) s = .next s) ∧
    (id.toNat < s.sreg.length →
      exec (.regSmp id base length rate root) s = .next { s with
        sreg := s.sreg.set id.toNat { valid := true, base := base, length := length, rate := rate, root := root } }) ∧
    (s.sreg.length ≤ id.toNat → exec (.regSmp id base length rate root) s = .next s)

/-- R302, R303, R304: binding one instrument clears the other, BIND_TRK restarts the sequence and loads the stage, and
UNBIND clears both. -/
def Obligations.BindingResults : Prop :=
  ∀ (s : State) (v : Byte) (addr : Word) (x : Voice), s.voices[v.toNat]? = some x →
    exec (.bindTrk v addr) s = .next { s with
      voices := s.voices.set v.toNat
        (trkLoad s.ctx { x with trkAddr := addr, smpInstAddr := 0, trkStage := 0, trkTick := 0 }) } ∧
    exec (.bindSmp v addr) s =
      .next { s with voices := s.voices.set v.toNat { x with smpInstAddr := addr, trkAddr := 0 } } ∧
    exec (.unbind v) s = .next { s with voices := s.voices.set v.toNat { x with trkAddr := 0, smpInstAddr := 0 } }

/-! ## Arpeggio and glide -/

/-- R235, R306, R307: SET_ARP stores up to ARP_MAX notes and sounds the first at once, count 0 detaches like DET_ARP,
and a longer list is ignored. -/
def Obligations.ArpeggioCommandResults : Prop :=
  ∀ (s : State) (v : Byte) (ms : Word) (notes : List Word) (x : Voice), s.voices[v.toNat]? = some x →
    exec (.detArp v) s = .next { s with voices := s.voices.set v.toNat { x with arpLen := 0 } } ∧
    (notes.length = 0 →
      exec (.setArp v ms notes) s = .next { s with voices := s.voices.set v.toNat { x with arpLen := 0 } }) ∧
    (8 < notes.length → exec (.setArp v ms notes) s = .next s) ∧
    (1 ≤ notes.length → notes.length ≤ 8 →
      ∃ y : Voice, exec (.setArp v ms notes) s = .next { s with voices := s.voices.set v.toNat y } ∧
        y = { x with arpLen := y.arpLen, arpSpeedMs := ms, arpNotes := y.arpNotes, arpIndex := 0,
                     arpCounter := y.arpCounter, freq := y.freq,
                     phaseInc := BitVec.ofNat 32 (y.freq.toNat * 4294967296 / (s.fs * 100)) } ∧
        y.arpLen.toNat = notes.length ∧ some y.freq = notes[0]? ∧
        (∀ k, k < notes.length → y.arpNotes[k]? = notes[k]?) ∧
        (∀ k, notes.length ≤ k → y.arpNotes[k]? = x.arpNotes[k]?) ∧
        y.arpCounter.toNat = max 1 (ticksFromMs s.ctrlRate ms.toNat))

/-- R220, R221: what GLIDE and GLIDE_TO set up. A duration of 0 ticks jumps to the end frequency and leaves the other
glide fields; else the difference, the truncated delta and the remainder, which fit their 34 bits, are stored. -/
def Obligations.GlideSetupResult : Prop :=
  ∀ (s : State) (v : Byte) (startFreq endFreq ms : Word) (x : Voice) (ticks : Nat), s.voices[v.toNat]? = some x →
    ticksFromMs s.ctrlRate ms.toNat = ticks →
    ∀ (i : Instr) (startInc freq : Word),
      (i = .glide v startFreq endFreq ms ∧ startInc = inc s.fs startFreq ∧ freq = startFreq) ∨
        (i = .glideTo v endFreq ms ∧ startInc = x.phaseInc ∧ freq = x.freq) →
      (ticks = 0 → exec i s = .next { s with
        voices := s.voices.set v.toNat
          { x with phaseInc := inc s.fs endFreq, freq := endFreq, glideActive := false } }) ∧
      (0 < ticks → ∃ y : Voice, exec i s = .next { s with voices := s.voices.set v.toNat y } ∧
        y = { x with
          phaseInc := startInc, freq := freq, glideDelta := y.glideDelta, glideRem := y.glideRem, glideRemAcc := 0,
          glideTarget := inc s.fs endFreq, glideTicks := y.glideTicks, glideLeft := y.glideTicks,
          glideActive := true } ∧
        y.glideTicks.toNat = ticks ∧
        y.glideDelta.toInt = Int.tdiv ((inc s.fs endFreq).toNat - startInc.toNat) ticks ∧
        y.glideRem.toInt = (inc s.fs endFreq).toNat - startInc.toNat - y.glideDelta.toInt * ticks ∧
        y.glideRem.toInt.natAbs < ticks)

/-- R222: one glide tick: the delta and at most one correction toward the remainder are added to the increment, whose
frequency is read back, and one tick fewer is left. R223: after exactly T ticks of the glide the increment is that of
the end frequency and the glide is over; until then it is active. -/
def Obligations.GlideArrivesExactly : Prop :=
  (∀ (c : Ctx) (x : Voice), x.glideActive = false → glideTick c x = x) ∧
  (∀ (c : Ctx) (x : Voice) (sum adjust acc : Int) (next left : Word), x.glideActive = true →
    sum = x.glideRemAcc.toInt + x.glideRem.toInt →
    (adjust, acc) =
      (if sum.natAbs < x.glideTicks.toNat then (0, sum)
       else if 0 < sum then (1, sum - x.glideTicks.toNat) else (-1, sum + x.glideTicks.toNat)) →
    next = BitVec.ofInt 32 (x.phaseInc.toNat + x.glideDelta.toInt + adjust) → left + 1 = x.glideLeft →
    glideTick c x =
      { x with phaseInc := next, freq := freqFromInc c.fs next, glideRemAcc := BitVec.ofInt 34 acc, glideLeft := left,
               glideActive := decide (left ≠ 0) }) ∧
  ∀ (c : Ctx) (startInc startFreq endFreq ms : Word) (x : Voice) (ticks : Nat),
    ticksFromMs c.ctrlRate ms.toNat = ticks → 0 < ticks →
    ((glideTick c)^[ticks] (glideSetup c startInc startFreq endFreq ms x)).phaseInc = inc c.fs endFreq ∧
    ((glideTick c)^[ticks] (glideSetup c startInc startFreq endFreq ms x)).glideActive = false ∧
    ∀ k, k < ticks → ((glideTick c)^[k] (glideSetup c startInc startFreq endFreq ms x)).glideActive = true

/-- R131, R132, R207: the increment is the rounded-down quotient modulo 2^32; below the sample rate the logical
frequency read back from it is at most one below the frequency it came from; a duration in ticks is rounded up and
saturated to 32 bits. -/
def Obligations.UnitConversions : Prop :=
  (∀ (fs : Nat) (f : Word), 1 ≤ fs → fs * 100 < 4294967296 →
    (inc fs f).toNat = f.toNat * 4294967296 / (fs * 100) % 4294967296 ∧
    (∀ i : Word, (freqFromInc fs i).toNat = i.toNat * fs * 100 / 4294967296 ∧ (freqFromInc fs i).toNat < fs * 100) ∧
    (f.toNat < fs * 100 →
      f.toNat ≤ (freqFromInc fs (inc fs f)).toNat + 1 ∧ (freqFromInc fs (inc fs f)).toNat ≤ f.toNat)) ∧
  ∀ (rate : Word) (ms : Nat), 1 ≤ rate.toNat →
    (ticksFromMs rate ms = 0 ↔ ms = 0) ∧ ticksFromMs rate ms ≤ 4294967295 ∧
    1000 * ticksFromMs rate ms < ms * rate.toNat + 1000 ∧
    (ms * rate.toNat ≤ 1000 * 4294967295 → ms * rate.toNat ≤ 1000 * ticksFromMs rate ms) ∧
    (1000 * 4294967295 < ms * rate.toNat → ticksFromMs rate ms = 4294967295)

/-- R236: one arpeggio tick, for an attached arpeggio and without one. The premises are the invariants of R29 and
R37. -/
def Obligations.ArpTickResult : Prop :=
  ∀ (c : Ctx) (x : Voice),
    (x.arpLen = 0 → arpTick c x = x) ∧
    (x.arpLen ≠ 0 → 2 ≤ x.arpCounter.toNat →
      ∃ left : Word, left.toNat + 1 = x.arpCounter.toNat ∧ arpTick c x = { x with arpCounter := left }) ∧
    (x.arpLen ≠ 0 → x.arpLen.toNat ≤ 8 → x.arpNotes.length = 8 → x.arpCounter.toNat = 1 →
      ∃ (index : BitVec 3) (note counter : Word),
        index.toNat = (x.arpIndex.toNat + 1) % x.arpLen.toNat ∧ x.arpNotes[index.toNat]? = some note ∧
        counter.toNat = max 1 (ticksFromMs c.ctrlRate x.arpSpeedMs.toNat) ∧
        arpTick c x =
          { x with arpIndex := index, freq := note, phaseInc := inc c.fs note, arpCounter := counter })

/-! ## Global settings -/

/-- R201, R310, R311: SET_RATE writes the control rate and the interval `max(1, fdiv(FS, rate))`, keeps the counter, and
with rate 0 does nothing; SET_MVOL writes the master volume. -/
def Obligations.GlobalSettingResults : Prop :=
  ∀ (s : State) (hz : Word) (volume : Byte), s.fs < 4294967296 →
    (hz = 0 → exec (.setRate hz) s = .next s) ∧
    (hz ≠ 0 → ∃ interval : Word, interval.toNat = max 1 (s.fs / hz.toNat) ∧
      exec (.setRate hz) s = .next { s with ctrlRate := hz, ctrlInterval := interval }) ∧
    exec (.setMvol volume) s = .next { s with master := volume }

/-! ## Accessors -/

/-- R312 to R317: what each accessor responds; none changes any other state. -/
def Obligations.AccessorResults : Prop :=
  ∀ (s : State) (v : Byte) (x : Voice) (gain : Nat), s.voices[v.toNat]? = some x →
    gain = (if x.trkAddr ≠ 0 then x.volume.toNat * x.trkVol.toNat / 256 else x.volume.toNat) * x.tremGain.toNat / 256 →
    exec (.getFreq v) s = .next { s with resp := s.resp ++ [x.freq] } ∧
    ∃ vol env env8 lvl lvl8 : Word,
      vol.toNat = x.volume.toNat ∧ env.toNat = x.envValue.toNat ∧
      env8.toNat = min 255 (x.envValue.toNat / 1048576) ∧ lvl.toNat = gain * (x.envValue.toNat / 1048576) ∧
      lvl8.toNat = min 255 (gain * (x.envValue.toNat / 1048576) / 256) ∧
      exec (.getVol v) s = .next { s with resp := s.resp ++ [vol] } ∧
      exec (.getEnv v) s = .next { s with resp := s.resp ++ [env] } ∧
      exec (.getEnv8 v) s = .next { s with resp := s.resp ++ [env8] } ∧
      exec (.getLvl v) s = .next { s with resp := s.resp ++ [lvl] } ∧
      exec (.getLvl8 v) s = .next { s with resp := s.resp ++ [lvl8] }

/-! ## RENDER -/

/-- R265, R266: RENDER with n = 0, n above MAXBLK or the reserved width code is ignored whole; an accepted one runs the
scheduler, then the voices in order over n cleared mix entries, then emits the n quantised entries; nothing else
changes. What a voice may read beside itself is what the state holds: parameters, sine ROM, memory, registries and
control rate. -/
def Obligations.RenderResult : Prop :=
  ∀ (s : State) (n : Half) (width : BitVec 2) (crush : Bool),
    s.ctx =
      { fs := s.fs, nibbleOrder := s.nibbleOrder, sineRom := s.sineRom, mem := s.mem, sreg := s.sreg, wreg := s.wreg,
        ctrlRate := s.ctrlRate } ∧
    (n = 0 ∨ s.mix.length < n.toNat ∨ width = 3 → exec (.render n width crush) s = .next s) ∧
    ∀ w : OutWidth, 1 ≤ n.toNat → n.toNat ≤ s.mix.length →
      (width = 0 ∧ w = .w8) ∨ (width = 1 ∧ w = .w16) ∨ (width = 2 ∧ w = .w32) →
      ∃ (ticked : State) (mix : List Word) (voices : List Voice),
        ticked = runScheduler n.toNat s ∧
        (mix, voices) = renderSlots s.ctx ticked.voices (List.replicate n.toNat 0) ∧ mix.length = n.toNat ∧
        exec (.render n width crush) s = .next
          { s with
            voices := voices, ctrlCounter := ticked.ctrlCounter, mix := mix ++ s.mix.drop n.toNat,
            out := s.out ++ mix.map fun m => BitVec.ofInt 32 (quantize s.master w crush m.toInt) }

/-- R280: what RENDER leaves alone in every voice: the fields commands set, and the glide and arpeggio descriptors. -/
def Obligations.RenderFrame : Prop :=
  ∀ (s t : State) (n : Half) (width : BitVec 2) (crush : Bool), exec (.render n width crush) s = .next t →
    t.voices.length = s.voices.length ∧
    ∀ (j : Nat) (x y : Voice), s.voices[j]? = some x → t.voices[j]? = some y →
      y = { x with
        active := y.active, envState := y.envState, freq := y.freq, phase := y.phase, phaseInc := y.phaseInc,
        envValue := y.envValue, smpPos := y.smpPos, smpDir := y.smpDir, smpFinished := y.smpFinished,
        noiseSeed := y.noiseSeed, vibPhase := y.vibPhase, vibOffset := y.vibOffset, tremPhase := y.tremPhase,
        tremGain := y.tremGain, glideActive := y.glideActive, glideRemAcc := y.glideRemAcc, glideLeft := y.glideLeft,
        arpIndex := y.arpIndex, arpCounter := y.arpCounter, trkStage := y.trkStage, trkTick := y.trkTick,
        trkCur := y.trkCur, trkNext := y.trkNext, trkMorph := y.trkMorph, trkVol := y.trkVol }

/-- An inactive voice is frozen: RENDER changes no field of it (`45_lfo_modulator.md` R203,
`70_reset_and_hazards.md` R368); with no voice active an accepted RENDER emits n zero words (R362). -/
def Obligations.InactiveVoicesAreFrozenAndSilent : Prop :=
  ∀ (s t : State) (n : Half) (width : BitVec 2) (crush : Bool), exec (.render n width crush) s = .next t →
    (∀ (j : Nat) (x : Voice), s.voices[j]? = some x → x.active = false → t.voices[j]? = some x) ∧
    ((∀ x ∈ s.voices, x.active = false) → 1 ≤ n.toNat → n.toNat ≤ s.mix.length → width ≠ 3 →
      t.voices = s.voices ∧ t.out = s.out ++ List.replicate n.toNat 0)

/-- R200, R202, R203: the scheduler runs `fdiv(counter + n, interval)` ticks over all voices and leaves the rest in the
counter; a tick skips an inactive voice whole and runs the five concerns of an active one in the document's order. -/
def Obligations.SchedulerRunsExactTicks : Prop :=
  (∀ (s : State) (n : Nat), 1 ≤ s.ctrlInterval.toNat →
    (runScheduler n s).voices =
      (tick s.ctx)^[(s.ctrlCounter.toNat + n) / s.ctrlInterval.toNat] s.voices ∧
    (runScheduler n s).ctrlCounter.toNat = (s.ctrlCounter.toNat + n) % s.ctrlInterval.toNat ∧
    (runScheduler n s).ctrlCounter.toNat < s.ctrlInterval.toNat) ∧
  ∀ (c : Ctx) (voices : List Voice) (j : Nat) (x : Voice), voices[j]? = some x →
    (x.active = false → (tick c voices)[j]? = some x) ∧
    (x.active = true →
      (tick c voices)[j]? = some (trackerTick c (glideTick c (arpTick c (tremoloTick c (vibratoTick c x))))))

/-- R205, R206: the LFO outputs of a tick, for any sine ROM, and the range of the tremolo gain. -/
def Obligations.LfoTickResults : Prop :=
  ∀ (c : Ctx) (x : Voice),
    (∃ p : Word, p = x.vibPhase + x.vibRate ∧
      vibratoTick c x =
        { x with vibPhase := p,
                 vibOffset := BitVec.ofInt 32 (x.vibDepth.toNat * (romWord c (p.toNat / 1048576) / 131072) / 16384) }) ∧
    ∃ (p : Word) (gain : Byte), p = x.tremPhase + x.tremRate ∧
      tremoloTick c x = { x with tremPhase := p, tremGain := gain } ∧
      (gain.toNat : Int) =
        255 - x.tremDepth.toNat * (romWord c (p.toNat / 1048576) / 131072 + 16384) / 32768 ∧
      1 ≤ gain.toNat

/-! ## Tracker instruments and zones -/

/-- R242: the three normalisations of a tracker-bound voice; in every other case nothing changes. -/
def Obligations.TrackerNormalise : Prop :=
  ∀ (c : Ctx) (x : Voice),
    (x.envState = .attack ∧ min (memRead c.mem x.trkAddr.toNat 1) 16 ≤ x.trkStage.toNat ∨ x.envState = .decay →
      trkNormalise c x = { x with envState := .sustain, trkStage := 0, trkTick := 0 }) ∧
    (x.envState = .release → min (memRead c.mem (x.trkAddr.toNat + 1) 1) 16 ≤ x.trkStage.toNat →
      trkNormalise c x =
        { x with envState := .idle, active := false, envValue := 0, trkStage := 0, trkTick := 0 }) ∧
    (x.envState = .idle ∨ x.envState = .sustain ∨
        x.envState = .attack ∧ x.trkStage.toNat < min (memRead c.mem x.trkAddr.toNat 1) 16 ∨
        x.envState = .release ∧ x.trkStage.toNat < min (memRead c.mem (x.trkAddr.toNat + 1) 1) 16 →
      trkNormalise c x = x)

/-- R239, R243: what TrkLoad loads for a tracker-bound voice once normalised: in Attack its entry of the attack array,
with the next entry or the sustain entry as lookahead; in Sustain the sustain entry; in Release its entry of the release
array, with the next one or itself as lookahead; and the morph factor of a smooth instrument. -/
def Obligations.TrackerLoadsStage : Prop :=
  ∀ (c : Ctx) (x y : Voice) (a k : Nat), y = trkNormalise c x → a = x.trkAddr.toNat → k = y.trkStage.toNat →
    (x.trkAddr = 0 → trkLoad c x = x) ∧
    (x.trkAddr ≠ 0 → y.envState = .idle → trkLoad c x = y) ∧
    (x.trkAddr ≠ 0 → y.envState = .sustain →
      trkLoad c x =
        { y with
          trkCur := BitVec.ofNat 16 (memRead c.mem (a + 4) 2), trkVol := BitVec.ofNat 8 (memRead c.mem (a + 3) 1),
          trkNext := BitVec.ofNat 16 (memRead c.mem (a + 4) 2), trkMorph := 0 }) ∧
    (x.trkAddr ≠ 0 → y.envState = .attack →
      trkLoad c x =
        { y with
          trkCur := BitVec.ofNat 16 (memRead c.mem (a + 8 + 4 * k) 2),
          trkVol := BitVec.ofNat 8 (memRead c.mem (a + 8 + 4 * k + 2) 1),
          trkNext := BitVec.ofNat 16
            (memRead c.mem (if k + 1 < min (memRead c.mem a 1) 16 then a + 8 + 4 * (k + 1) else a + 4) 2),
          trkMorph := (trkLoad c x).trkMorph }) ∧
    (x.trkAddr ≠ 0 → y.envState = .release →
      trkLoad c x =
        { y with
          trkCur := BitVec.ofNat 16 (memRead c.mem (a + 72 + 4 * k) 2),
          trkVol := BitVec.ofNat 8 (memRead c.mem (a + 72 + 4 * k + 2) 1),
          trkNext := BitVec.ofNat 16 (memRead c.mem
            (if k + 1 < min (memRead c.mem (a + 1) 1) 16 then a + 72 + 4 * (k + 1) else a + 72 + 4 * k) 2),
          trkMorph := (trkLoad c x).trkMorph }) ∧
    (x.trkAddr ≠ 0 → y.envState = .attack ∨ y.envState = .release →
      ∀ total, total = max 1 (ticksFromMs c.ctrlRate (memRead c.mem (a + 6) 2)) → y.trkTick.toNat < total →
        (trkLoad c x).trkMorph.toNat =
          if memRead c.mem (a + 2) 1 % 2 = 1 then y.trkTick.toNat * 255 / total else 0)

/-- R240, R245: a tracker tick: in Attack and Release the stage holds for its ticks and then the next stage begins; the
stage is loaded again in every state. -/
def Obligations.TrackerTickResult : Prop :=
  ∀ (c : Ctx) (x : Voice) (total : Nat),
    total = max 1 (ticksFromMs c.ctrlRate (memRead c.mem (x.trkAddr.toNat + 6) 2)) →
    (x.trkAddr = 0 → trackerTick c x = x) ∧
    (x.trkAddr ≠ 0 → x.envState ≠ .attack → x.envState ≠ .release → trackerTick c x = trkLoad c x) ∧
    (x.trkAddr ≠ 0 → x.envState = .attack ∨ x.envState = .release → x.trkTick.toNat + 1 < total →
      ∃ tick : Word, tick.toNat = x.trkTick.toNat + 1 ∧ trackerTick c x = trkLoad c { x with trkTick := tick }) ∧
    (x.trkAddr ≠ 0 → x.envState = .attack ∨ x.envState = .release → total ≤ x.trkTick.toNat + 1 →
      x.trkStage.toNat ≤ 16 →
      ∃ stage : BitVec 5, stage.toNat = x.trkStage.toNat + 1 ∧
        trackerTick c x = trkLoad c { x with trkTick := 0, trkStage := stage })

/-- R253: the first zone in index order whose inclusive bounds hold the note gives the sample and its root override; a
note outside every zone gets id 0xFFFF; the loop mode and bounds come from the descriptor. -/
def Obligations.FirstMatchingZoneWins : Prop :=
  ∀ (c : Ctx) (f : Word) (x : Voice) (a zones : Nat) (hit : Nat → Prop), a = x.smpInstAddr.toNat →
    zones = min (memRead c.mem a 1) 8 →
    (∀ z, hit z ↔ memRead c.mem (a + 12 + 16 * z) 4 ≤ f.toNat ∧ f.toNat ≤ memRead c.mem (a + 12 + 16 * z + 4) 4) →
    zoneLookup c f x =
      { x with kind := .sample, smpId := (zoneLookup c f x).smpId, rootOverride := (zoneLookup c f x).rootOverride,
               loopMode := loopModeOfCode (BitVec.ofNat 2 (memRead c.mem (a + 1) 1)),
               loopStart := BitVec.ofNat 32 (memRead c.mem (a + 4) 4),
               loopEnd := BitVec.ofNat 32 (memRead c.mem (a + 8) 4) } ∧
    ((∀ z, z < zones → ¬ hit z) → (zoneLookup c f x).smpId = 0xFFFF ∧ (zoneLookup c f x).rootOverride = 0) ∧
    ∀ z, z < zones → hit z → (∀ z', z' < z → ¬ hit z') →
      (zoneLookup c f x).smpId = BitVec.ofNat 16 (memRead c.mem (a + 12 + 16 * z + 8) 2) ∧
      (zoneLookup c f x).rootOverride = BitVec.ofNat 32 (memRead c.mem (a + 12 + 16 * z + 12) 4)

/-! ## Envelope -/

/-- R122: the envelope of every sample of a block and the value after it stay within 0 .. ENV_MAX. -/
def Obligations.EnvelopeStaysInRange : Prop :=
  ∀ (n : Nat) (x : Voice), x.envValue.toNat ≤ 268435456 → x.sustain.toNat ≤ 268435456 →
    (∀ i, i < n → 0 ≤ (envBlock n x).1.env i ∧ (envBlock n x).1.env i ≤ 268435456) ∧
    (envBlock n x).2.envValue.toNat ≤ 268435456

/-- R111, R112, R117, R119: the blocks with a flat envelope: a tracker-bound voice, Idle, Sustain, and the jumps of an
infinite rate. -/
def Obligations.FlatEnvelopes : Prop :=
  ∀ (n : Nat) (x : Voice),
    (x.trkAddr ≠ 0 →
      envBlock n x = ({ start := 268435456, step := 0 }, { x with envValue := 268435456 })) ∧
    (x.trkAddr = 0 → x.envState = .idle → envBlock n x = ({ start := 0, step := 0 }, { x with envValue := 0 })) ∧
    (x.trkAddr = 0 → x.envState = .sustain → envBlock n x = ({ start := x.envValue.toNat, step := 0 }, x)) ∧
    (x.trkAddr = 0 → x.envState = .attack → 268435456 ≤ x.rateAttack.toNat →
      envBlock n x =
        ({ start := 268435456, step := 0 }, { x with envValue := 268435456, envState := .decay })) ∧
    (x.trkAddr = 0 → x.envState = .decay → 268435456 ≤ x.rateDecay.toNat →
      envBlock n x =
        ({ start := x.sustain.toNat, step := 0 }, { x with envValue := x.sustain, envState := .sustain })) ∧
    (x.trkAddr = 0 → x.envState = .release → 268435456 ≤ x.rateRelease.toNat →
      envBlock n x = ({ start := 0, step := 0 }, { x with envValue := 0, envState := .idle, active := false }))

/-- R113, R114: a block of finite Attack that stays below the top, and one that crosses it and spends the remaining
samples at the decay rate, as one straight line to the exit value. -/
def Obligations.AttackBlock : Prop :=
  ∀ (n : Nat) (x : Voice), 1 ≤ n → x.trkAddr = 0 → x.envState = .attack → x.envValue.toNat ≤ 268435456 →
    x.sustain.toNat ≤ 268435456 → x.rateAttack.toNat < 268435456 →
    (envBlock n x).1.start = x.envValue.toNat ∧
    (envBlock n x).1.step = Int.tdiv ((envBlock n x).2.envValue.toNat - x.envValue.toNat) n ∧
    (envBlock n x).2 = { x with envState := (envBlock n x).2.envState, envValue := (envBlock n x).2.envValue } ∧
    (x.envValue.toNat + x.rateAttack.toNat * n < 268435456 →
      (envBlock n x).2.envValue.toNat = x.envValue.toNat + x.rateAttack.toNat * n ∧
      (envBlock n x).2.envState = .attack ∧ (envBlock n x).1.step = x.rateAttack.toNat) ∧
    (268435456 ≤ x.envValue.toNat + x.rateAttack.toNat * n →
      ∀ k, (if x.envValue.toNat = 268435456 then k = 0
            else 268435456 ≤ x.envValue.toNat + x.rateAttack.toNat * k ∧
              x.envValue.toNat + x.rateAttack.toNat * k < 268435456 + x.rateAttack.toNat) →
        k ≤ n ∧
        (((envBlock n x).2.envValue.toNat : Int), decide ((envBlock n x).2.envState = .sustain)) =
          decayMove x 268435456 (n - k) ∧
        ((envBlock n x).2.envState = .sustain ∨ (envBlock n x).2.envState = .decay))

/-- R115, R116: the move toward the sustain level, from either side and at most the rate per sample; a block of finite
Decay makes it and ends in Sustain exactly when the level is reached. -/
def Obligations.DecayBlock : Prop :=
  (∀ (x : Voice) (y level tot : Int) (m : Nat), level = x.sustain.toNat → tot = x.rateDecay.toNat * m →
    (y = level → decayMove x y m = (level, true)) ∧ (y ≠ level → m = 0 → decayMove x y m = (y, false)) ∧
    (y ≠ level → m ≠ 0 → 268435456 ≤ x.rateDecay.toNat → decayMove x y m = (level, true)) ∧
    (m ≠ 0 → x.rateDecay.toNat < 268435456 → level < y →
      decayMove x y m = if y - tot ≤ level then (level, true) else (y - tot, false)) ∧
    (m ≠ 0 → x.rateDecay.toNat < 268435456 → y < level →
      decayMove x y m = if level ≤ y + tot then (level, true) else (y + tot, false))) ∧
  ∀ (n : Nat) (x : Voice), 1 ≤ n → x.trkAddr = 0 → x.envState = .decay → x.envValue.toNat ≤ 268435456 →
    x.sustain.toNat ≤ 268435456 → x.rateDecay.toNat < 268435456 →
    (envBlock n x).1.start = x.envValue.toNat ∧
    (envBlock n x).1.step = Int.tdiv ((envBlock n x).2.envValue.toNat - x.envValue.toNat) n ∧
    (envBlock n x).2 = { x with envState := (envBlock n x).2.envState, envValue := (envBlock n x).2.envValue } ∧
    ((envBlock n x).2.envValue.toNat =
      if x.sustain.toNat ≤ x.envValue.toNat then max x.sustain.toNat (x.envValue.toNat - x.rateDecay.toNat * n)
      else min x.sustain.toNat (x.envValue.toNat + x.rateDecay.toNat * n)) ∧
    ((envBlock n x).2.envState = if (envBlock n x).2.envValue = x.sustain then .sustain else .decay)

/-- R118: a block of finite Release goes down by the rate per sample and ends the voice when it reaches 0. -/
def Obligations.ReleaseBlock : Prop :=
  ∀ (n : Nat) (x : Voice), 1 ≤ n → x.trkAddr = 0 → x.envState = .release → x.rateRelease.toNat < 268435456 →
    (envBlock n x).1.start = x.envValue.toNat ∧
    (envBlock n x).1.step = Int.tdiv ((envBlock n x).2.envValue.toNat - x.envValue.toNat) n ∧
    (x.envValue.toNat ≤ x.rateRelease.toNat * n →
      (envBlock n x).2 = { x with envState := .idle, active := false, envValue := 0 }) ∧
    (x.rateRelease.toNat * n < x.envValue.toNat →
      ∃ value : BitVec 29, value.toNat = x.envValue.toNat - x.rateRelease.toNat * n ∧
        (envBlock n x).2 = { x with envValue := value })

/-- R269: the voice loop visits the slots in ascending order, each adding to the mix the earlier ones left, and slot j
holds afterwards the voice its own round leaves, whatever the mix holds; the round of an inactive slot changes nothing.
R270, R271: a voice whose block starts at 0 outside Attack contributes nothing and its oscillator does not move,
while its envelope has been advanced; a release that reaches 0 inside the block is still rendered. A voice that is
rendered goes to the renderer of its kind, or to the tracker's when it is tracker-bound. -/
def Obligations.EarlyOutAndDispatch : Prop :=
  (∀ (c : Ctx) (r : Ramp) (x : Voice) (mix : List Word),
    (x.trkAddr ≠ 0 → renderVoice c r x mix = renderTracker c r x mix) ∧
    (x.trkAddr = 0 → x.kind = .basic → renderVoice c r x mix = renderBasic c r x mix) ∧
    (x.trkAddr = 0 → x.kind = .wavetable → renderVoice c r x mix = renderWavetable c r x mix) ∧
    (x.trkAddr = 0 → x.kind = .sample → renderVoice c r x mix = renderSample c r x mix) ∧
    (x.trkAddr = 0 → x.kind = .noise → renderVoice c r x mix = renderNoise r x mix)) ∧
  (∀ (c : Ctx) (voices : List Voice) (mix : List Word),
    (renderSlots c voices mix).1 = voices.foldl (fun m x => (renderSlot c x m).1) mix ∧
    (renderSlots c voices mix).2.length = voices.length ∧
    ∀ (j : Nat) (x : Voice), voices[j]? = some x →
      (∀ m : List Word, m.length = mix.length → (renderSlots c voices mix).2[j]? = some (renderSlot c x m).2) ∧
      (x.active = false → renderSlot c x mix = (mix, x) ∧ (renderSlots c voices mix).2[j]? = some x)) ∧
  ∀ (c : Ctx) (x : Voice) (mix : List Word), x.active = true →
    ((envBlock mix.length x).1.start = 0 → x.envState ≠ .attack →
      renderSlot c x mix = (mix, (envBlock mix.length x).2) ∧
      (renderSlot c x mix).2.phase = x.phase ∧ (renderSlot c x mix).2.smpPos = x.smpPos ∧
      (renderSlot c x mix).2.noiseSeed = x.noiseSeed) ∧
    (x.envState = .attack ∨ (envBlock mix.length x).1.start ≠ 0 →
      renderSlot c x mix = renderVoice c (envBlock mix.length x).1 (envBlock mix.length x).2 mix) ∧
    (x.trkAddr = 0 → x.envState = .release → x.rateRelease.toNat < 268435456 → x.envValue ≠ 0 →
      x.envValue.toNat ≤ x.rateRelease.toNat * mix.length →
      (envBlock mix.length x).1.start = x.envValue.toNat ∧
      renderSlot c x mix = renderVoice c (envBlock mix.length x).1 x.enterIdle mix)

/-! ## Oscillators -/

/-- R134, R144, R153, R248: a phase-driven renderer takes sample i at the phase advanced i steps, adds its contribution
to mix entry i, and leaves the phase advanced exactly n steps. -/
def Obligations.PhaseRenderers : Prop :=
  ∀ (c : Ctx) (r : Ramp) (x : Voice) (mix : List Word) (render : Ctx → Ramp → Voice → List Word → List Word × Voice)
    (sample : Word → Int),
    (render = renderBasic ∧ sample = fun p => basicSample c x.shape p x.pulseWidth) ∨
      (render = renderWavetable ∧ sample = wtSample c x.wtId.toNat) ∨
      (render = renderTracker ∧ sample = trkSample c x) →
    (render c r x mix).2 =
      { x with phase := x.phase + BitVec.ofNat 32 mix.length * (x.phaseInc + x.vibOffset) } ∧
    (render c r x mix).1.length = mix.length ∧
    ∀ (i : Nat) (m : Word), mix[i]? = some m →
      (render c r x mix).1[i]? = some (BitVec.ofInt 32 (m.toInt +
        contribution (sample (x.phase + BitVec.ofNat 32 i * (x.phaseInc + x.vibOffset))) x.gain
          (r.start + i * r.step)))

/-- R150, R151: the element index of a phase is below the size, it is the rounded-down share of the cycle; the sample of
a wavetable that is not missing is its element of that index, that of a missing one is 0, and it is a 16-bit value at
every depth. -/
def Obligations.WavetableIndex : Prop :=
  ∀ (c : Ctx) (id : Nat) (p : Word) (size : Nat), 1 ≤ size → size < 4294967296 →
    wtIndex p size < size ∧ wtIndex p size = p.toNat * size / 4294967296 ∧
    (∀ e, c.wreg[id]? = some e → e.valid = true → e.base ≠ 0 → e.size ≠ 0 →
      wtSample c id p = wtElem c e (wtIndex p e.size.toNat)) ∧
    ((∀ e, c.wreg[id]? = some e → e.valid = false ∨ e.base = 0 ∨ e.size = 0) → wtSample c id p = 0) ∧
    -32768 ≤ wtSample c id p ∧ wtSample c id p ≤ 32767

/-- R191, R192, R193: noise outputs the held sample; by sample i the generator has stepped once for every carry out of
bit 31, that is `(phase + i*phaseInc) / 2^32` times. -/
def Obligations.NoiseClockedByCarry : Prop :=
  ∀ (r : Ramp) (x : Voice) (mix : List Word) (clocks : Nat → Nat) (seed : Nat → Word),
    (∀ i, clocks i = (x.phase.toNat + i * x.phaseInc.toNat) / 4294967296) →
    seed 0 = x.noiseSeed → (∀ k, seed (k + 1) = BitVec.ofNat 32 ((seed k).toNat * 1664525 + 1013904223)) →
    (renderNoise r x mix).2 =
      { x with phase := x.phase + BitVec.ofNat 32 mix.length * x.phaseInc, noiseSeed := seed (clocks mix.length) } ∧
    (renderNoise r x mix).1.length = mix.length ∧
    ∀ (i : Nat) (m : Word), mix[i]? = some m →
      (renderNoise r x mix).1[i]? = some (BitVec.ofInt 32 (m.toInt +
        contribution (BitVec.ofNat 16 ((seed (clocks i)).toNat / 65536)).toInt x.gain (r.start + i * r.step)))

/-- R135 to R141, R246, R247 and `20_memory.md` R65, R69: the value of every waveform, of an entry of the sine ROM (64
rows of 64 words), of a wavetable element by depth, of a tracker's crossfade, of the gain and of a contribution. -/
def Obligations.SampleValues : Prop :=
  (∀ (c : Ctx) (i : Nat) (row : List Word) (w : Word), c.sineRom[i / 64]? = some row → row[i % 64]? = some w →
    romWord c i = w.toInt) ∧
  (∀ x : Voice, x.gain =
    (if x.trkAddr ≠ 0 then x.volume.toNat * x.trkVol.toNat / 256 else x.volume.toNat) * x.tremGain.toNat / 256) ∧
  (∀ (c : Ctx) (p pw : Word) (s : Int),
    s = (if p.toNat / 65536 < 32768 then (p.toNat / 65536 : Int) else p.toNat / 65536 - 65536) →
    basicSample c .saw p pw = s ∧ basicSample c .sine p pw = romWord c (p.toNat / 1048576) / 65536 ∧
    basicSample c .pulse p pw = (if p.toNat < pw.toNat then 32767 else -32767) ∧
    basicSample c .triangle p pw = 2 * (if 0 ≤ s then s else -s - 1) - 32767) ∧
  (∀ (c : Ctx) (e : WtEntry) (k h b lo hi : Nat),
    h = memRead c.mem (e.base.toNat + 2 * k) 2 → b = memRead c.mem (e.base.toNat + k) 1 →
    lo = memRead c.mem (e.base.toNat + k / 2) 1 % 16 → hi = memRead c.mem (e.base.toNat + k / 2) 1 / 16 →
    (e.depth = 16 → wtElem c e k = if h < 32768 then (h : Int) else h - 65536) ∧
    (e.depth = 8 → wtElem c e k = ((b : Int) - 128) * 256) ∧
    (e.depth = 4 → c.nibbleOrder = .lowFirst → wtElem c e k = ((if k % 2 = 0 then lo else hi : Nat) - 8 : Int) * 4096) ∧
    (e.depth = 4 → c.nibbleOrder = .highFirst →
      wtElem c e k = ((if k % 2 = 0 then hi else lo : Nat) - 8 : Int) * 4096)) ∧
  (∀ (c : Ctx) (code : Half) (p pw : Word),
    (code.toInt = -1 → srcSample c code p pw = basicSample c .saw p pw) ∧
    (code.toInt = -2 → srcSample c code p pw = basicSample c .sine p pw) ∧
    (code.toInt = -3 → srcSample c code p pw = basicSample c .pulse p pw) ∧
    (code.toInt = -4 → srcSample c code p pw = basicSample c .triangle p pw) ∧
    (code.toInt < -4 → srcSample c code p pw = 0) ∧
    (0 ≤ code.toInt → srcSample c code p pw = wtSample c code.toNat p)) ∧
  (∀ (c : Ctx) (x : Voice) (p : Word) (a b : Int), a = srcSample c x.trkCur p x.pulseWidth →
    b = srcSample c x.trkNext p x.pulseWidth →
    (x.trkMorph = 0 → trkSample c x p = a) ∧
    (x.trkMorph ≠ 0 → trkSample c x p = (a * (256 - x.trkMorph.toNat) + b * x.trkMorph.toNat) / 256) ∧
    -32768 ≤ trkSample c x p ∧ trkSample c x p ≤ 32767) ∧
  ∀ (s e : Int) (g : Nat), contribution s g e = s * g * (e / 1048576) / 65536

/-- R68, R166, R167, R170 to R173: the playback increment, the format of a sample, the fetch, and every move of the
head of a looping sample voice, by mode, direction and boundary. -/
def Obligations.SampleHeadMoves : Prop :=
  (∀ (c : Ctx) (e : SmpEntry) (x : Voice) (root : Nat),
    root = (if x.rootOverride ≠ 0 then x.rootOverride.toNat else e.root.toNat) →
    (root = 0 → sampleInc c e x = 0) ∧
    (root ≠ 0 →
      (sampleInc c e x).toNat = x.freq.toNat * e.rate.toNat * 65536 / (root * c.fs) % 4294967296)) ∧
  (∀ (c : Ctx) (e : SmpEntry) (pos : BitVec 64),
    (pos.toNat / 65536 < e.length.toNat → sampleFetch c e pos = pcmSample c e (pos.toNat / 65536)) ∧
    (e.length.toNat ≤ pos.toNat / 65536 → sampleFetch c e pos = 0)) ∧
  (∀ (c : Ctx) (e : SmpEntry) (k h : Nat), h = memRead c.mem (e.base.toNat + 2 * k) 2 →
    pcmSample c e k = if h < 32768 then (h : Int) else h - 65536) ∧
  ∀ (x : Voice) (length sinc lo hi top : Nat) (h : PlayHead), x.loopMode ≠ .off →
    lo = x.loopStart.toNat * 65536 → hi = x.loopEnd.toNat * 65536 → top = (x.loopEnd.toNat - 1) * 65536 →
    (h.dir = .forward → h.pos.toNat + sinc < hi → ∃ pos : BitVec 64, pos.toNat = h.pos.toNat + sinc ∧
      sampleStep x length sinc h = { h with pos := pos }) ∧
    (h.dir = .forward → hi ≤ h.pos.toNat + sinc → x.loopMode ≠ .pingPong → ∃ pos : BitVec 64, pos.toNat = lo ∧
      sampleStep x length sinc h = { h with pos := pos }) ∧
    (h.dir = .forward → hi ≤ h.pos.toNat + sinc → x.loopMode = .pingPong → ∃ pos : BitVec 64, pos.toNat = top ∧
      sampleStep x length sinc h = { h with pos := pos, dir := .backward }) ∧
    (h.dir = .backward → lo + sinc ≤ h.pos.toNat → ∃ pos : BitVec 64, pos.toNat + sinc = h.pos.toNat ∧
      sampleStep x length sinc h = { h with pos := pos }) ∧
    (h.dir = .backward → h.pos.toNat < lo + sinc → x.loopMode ≠ .pingPong → ∃ pos : BitVec 64, pos.toNat = top ∧
      sampleStep x length sinc h = { h with pos := pos }) ∧
    (h.dir = .backward → h.pos.toNat < lo + sinc → x.loopMode = .pingPong → ∃ pos : BitVec 64, pos.toNat = lo ∧
      sampleStep x length sinc h = { h with pos := pos, dir := .forward })

/-- The positions of a looping sample voice stay inside the loop (`43_sample_playback_oscillator.md` R171, R178): below
the loop end always, and at or above the loop start once there; a ping-pong flip lands on the boundary sample. -/
def Obligations.LoopKeepsPosition : Prop :=
  ∀ (x : Voice) (length sinc : Nat) (h : PlayHead), x.loopMode ≠ .off → x.loopStart.toNat < x.loopEnd.toNat →
    h.pos.toNat < x.loopEnd.toNat * 65536 → sinc < 4294967296 →
    (sampleStep x length sinc h).pos.toNat < x.loopEnd.toNat * 65536 ∧
    (x.loopStart.toNat * 65536 ≤ h.pos.toNat →
      x.loopStart.toNat * 65536 ≤ (sampleStep x length sinc h).pos.toNat) ∧
    (h.dir = .backward → x.loopStart.toNat * 65536 ≤ (sampleStep x length sinc h).pos.toNat) ∧
    ((sampleStep x length sinc h).dir ≠ h.dir → x.loopMode = .pingPong ∧
      (h.dir = .forward → (sampleStep x length sinc h).pos.toNat = (x.loopEnd.toNat - 1) * 65536) ∧
      (h.dir = .backward → (sampleStep x length sinc h).pos.toNat = x.loopStart.toNat * 65536)) ∧
    (sampleStep x length sinc h).ended = h.ended

/-- R168, R174, R177: over a block of a registered sample, in any loop mode, mix entry i gets the contribution of the
fetch at the head after i steps, unless the voice ended before, and the voice is left with the head after the last step;
a finished voice does nothing. R169: in loop mode Off the position moves forward whatever the direction, and at the end
of the sample the voice is finished, inactive and Idle with value 0, and the samples left in the block receive nothing
from it. -/
def Obligations.OffModeEndsVoice : Prop :=
  (∀ (c : Ctx) (e : SmpEntry) (x : Voice) (r : Ramp) (mix : List Word) (head : Nat → PlayHead),
    c.sreg[x.smpId.toNat]? = some e → e.valid = true → e.base ≠ 0 → e.length ≠ 0 →
    head 0 = { pos := x.smpPos, dir := x.smpDir, ended := false } →
    (∀ k, head (k + 1) = sampleStep x e.length.toNat (sampleInc c e x).toNat (head k)) →
    (x.smpFinished = true → renderSample c r x mix = (mix, x)) ∧
    (x.smpFinished = false →
      (renderSample c r x mix).1.length = mix.length ∧
      (∀ (i : Nat) (m : Word), mix[i]? = some m →
        ((head i).ended = false → (renderSample c r x mix).1[i]? = some (BitVec.ofInt 32 (m.toInt +
          contribution (sampleFetch c e (head i).pos) x.gain (r.start + i * r.step)))) ∧
        ((head i).ended = true → (renderSample c r x mix).1[i]? = some m)) ∧
      ((head mix.length).ended = false → (renderSample c r x mix).2 =
        { x with smpPos := (head mix.length).pos, smpDir := (head mix.length).dir }) ∧
      ((head mix.length).ended = true → (renderSample c r x mix).2 =
        { x with smpPos := (head mix.length).pos, smpDir := (head mix.length).dir, smpFinished := true,
                 active := false, envState := .idle, envValue := 0 }))) ∧
  ∀ (c : Ctx) (e : SmpEntry) (x : Voice) (sinc : Nat) (r : Ramp) (m : Word) (ms : List Word) (i : Nat) (h : PlayHead),
    x.loopMode = .off → h.ended = false →
    (h.pos.toNat + sinc < e.length.toNat * 65536 →
      ∃ pos : BitVec 64, pos.toNat = h.pos.toNat + sinc ∧
        sampleStep x e.length.toNat sinc h = { h with pos := pos }) ∧
    (e.length.toNat * 65536 ≤ h.pos.toNat + sinc →
      ∃ pos : BitVec 64, pos.toNat = e.length.toNat * 65536 ∧
        sampleLoop c e x sinc r (m :: ms) i h =
          (BitVec.ofInt 32 (m.toInt + contribution (sampleFetch c e h.pos) x.gain (r.start + i * r.step)) :: ms,
            { h with pos := pos, ended := true }) ∧
        x.withHead { h with pos := pos, ended := true } =
          { x with smpPos := pos, smpDir := h.dir, smpFinished := true, active := false, envState := .idle,
                   envValue := 0 })

/-- R176: the start of a sample clamps the loop end to the length of a registered sample, resets a loop start that is
not below the end, and places the head. -/
def Obligations.SampleStartClamps : Prop :=
  ∀ (c : Ctx) (x y : Voice), y = sampleStart c x →
    y = { x with loopStart := y.loopStart, loopEnd := y.loopEnd, smpDir := y.smpDir, smpPos := y.smpPos } ∧
    (∀ e, c.sreg[x.smpId.toNat]? = some e → e.valid = true →
      y.loopEnd = (if x.loopEnd = 0 ∨ e.length.toNat < x.loopEnd.toNat then e.length else x.loopEnd) ∧
      y.loopEnd.toNat ≤ e.length.toNat) ∧
    ((∀ e, c.sreg[x.smpId.toNat]? = some e → e.valid = false) → y.loopEnd = x.loopEnd) ∧
    y.loopStart = (if x.loopStart.toNat < y.loopEnd.toNat then x.loopStart else 0) ∧
    (y.loopEnd ≠ 0 → y.loopStart.toNat < y.loopEnd.toNat) ∧
    (x.loopMode ≠ .reverse → y.smpDir = .forward ∧ y.smpPos = 0) ∧
    (x.loopMode = .reverse → y.smpDir = .backward ∧ y.smpPos.toNat = (y.loopEnd.toNat - 1) * 65536)

/-- R67, R154, R175: with missing data a wavetable voice is silent and its phase advances, a sample voice is silent and
does not move; neither is deactivated. -/
def Obligations.MissingDataIsSilent : Prop :=
  ∀ (c : Ctx) (r : Ramp) (x : Voice) (mix : List Word),
    ((∀ e, c.wreg[x.wtId.toNat]? = some e → e.valid = false ∨ e.base = 0 ∨ e.size = 0) →
      renderWavetable c r x mix =
        (mix, { x with phase := x.phase + BitVec.ofNat 32 mix.length * (x.phaseInc + x.vibOffset) })) ∧
    ((∀ e, c.sreg[x.smpId.toNat]? = some e → e.valid = false ∨ e.base = 0 ∨ e.length = 0) →
      renderSample c r x mix = (mix, x))

/-! ## Mixing and quantising -/

/-- R277: the accumulator never overflows: every voice adds its own contribution to a mix entry as a plain integer,
whatever the other voices added before it, a contribution is -32512 to 32511, and the sum stays within NV times
32512. -/
def Obligations.VoicesAddWithoutOverflow : Prop :=
  ∀ (s : State) (n i : Nat), s.Inv → 1 ≤ n → i < n →
    ∃ m : Word, (renderSlots s.ctx s.voices (List.replicate n 0)).1[i]? = some m ∧
      m.toInt = (s.voices.map fun x =>
        (((renderSlot s.ctx x (List.replicate n 0)).1[i]?).getD 0).toInt).sum ∧
      (∀ x ∈ s.voices, -32512 ≤ (((renderSlot s.ctx x (List.replicate n 0)).1[i]?).getD 0).toInt ∧
        (((renderSlot s.ctx x (List.replicate n 0)).1[i]?).getD 0).toInt ≤ 32511) ∧
      m.toInt.natAbs ≤ s.voices.length * 32512 ∧ (m.toInt * s.master.toNat).natAbs < 2147483648

/-- R272 to R275: the quantiser by width and crush flag: scale, clip to 16 bits, mask the low byte, narrow. -/
def Obligations.QuantiserFormula : Prop :=
  ∀ (master : Byte) (crush : Bool) (x y c : Int), y = x * master.toNat / 256 →
    c = (if y < -32768 then -32768 else if 32767 < y then 32767 else y) →
    quantize master .w8 crush x = c / 256 ∧
    quantize master .w16 crush x = (if crush then c / 256 * 256 else c) ∧
    quantize master .w32 crush x = (if crush then c / 256 * 256 else c) * 65536

/-! ## Memory and reset -/

/-- R62, R63: reads of 2 and 4 bytes are little-endian sums of single bytes at any address, and byte addresses wrap
modulo 2^32. R61, R76: a byte read is the byte the platform last wrote at that address, and a write at one address
changes no other byte and no other state. -/
def Obligations.LittleEndianReads : Prop :=
  (∀ (m : Memory) (a : Nat),
    memRead m a 1 = (memByte m a).toNat ∧
    memRead m a 2 = (memByte m a).toNat + 256 * (memByte m (a + 1)).toNat ∧
    memRead m a 4 = memRead m a 2 + 65536 * memRead m (a + 2) 2 ∧
    memByte m (a + 4294967296) = memByte m a) ∧
  ∀ (s : State) (a : Word) (b : Byte),
    s.platformWrite a b = { s with mem := (s.platformWrite a b).mem } ∧
    memByte (s.platformWrite a b).mem a.toNat = b ∧
    ∀ a' : Nat, a' % 4294967296 ≠ a.toNat → memByte (s.platformWrite a b).mem a' = memByte s.mem a'

/-- R39: the reset values, for any parameters. -/
def Obligations.ResetValues : Prop :=
  ∀ (c : Config) (mem : Memory) (s : State), s = State.resetWith c mem →
    s.voices.length = c.nv ∧ s.sreg.length = c.ns ∧ s.wreg.length = c.nw ∧ s.mix.length = c.maxBlk ∧
    (∀ x ∈ s.voices, x =
      { active := false, envState := .idle, freq := 0, phase := 0, phaseInc := 0, volume := 0, envValue := 0,
        rateAttack := 0x10000000, rateDecay := 0x10000000, rateRelease := 0x10000000, sustain := 0x10000000,
        kind := .basic, shape := .saw, pulseWidth := 0x80000000, wtId := 0, smpId := 0, loopMode := .off,
        loopStart := 0, loopEnd := 0, smpPos := 0, smpDir := .forward, smpFinished := false, rootOverride := 0,
        noiseSeed := 0, vibPhase := 0, vibRate := 0, vibDepth := 0, vibOffset := 0, tremPhase := 0, tremRate := 0,
        tremDepth := 0, tremGain := 255, glideActive := false, glideDelta := 0, glideRem := 0, glideRemAcc := 0,
        glideTarget := 0, glideTicks := 0, glideLeft := 0, arpLen := 0, arpNotes := [0, 0, 0, 0, 0, 0, 0, 0],
        arpIndex := 0, arpCounter := 0, arpSpeedMs := 0, trkAddr := 0, smpInstAddr := 0, trkStage := 0, trkTick := 0,
        trkCur := 0, trkNext := 0, trkMorph := 0, trkVol := 0 }) ∧
    s.master = 255 ∧ s.ctrlRate = 100 ∧ s.ctrlInterval = BitVec.ofNat 32 (max 1 (c.fs / 100)) ∧ s.ctrlCounter = 0 ∧
    (∀ e ∈ s.sreg, e = { valid := false, base := 0, length := 0, rate := 0, root := 0 }) ∧
    (∀ e ∈ s.wreg, e = { valid := false, base := 0, size := 0, depth := 0 }) ∧
    s.mem = mem ∧ s.sineRom = c.sineRom ∧ s.cmd = [] ∧ s.resp = [] ∧ s.out = []

/-- R361: asserting reset leaves table memory and the sine ROM, and after it every sample and wavetable id is missing
until it is registered again. -/
def Obligations.ResetKeepsMemoryClearsRegistries : Prop :=
  ∀ s : State,
    s.resetInput.mem = s.mem ∧ s.resetInput.sineRom = s.sineRom ∧ s.resetInput.config = s.config ∧
    (∀ id, smpEntry? s.resetInput.ctx id = none ∧ wtEntry? s.resetInput.ctx id = none) ∧
    s.resetInput.cmd = [] ∧ s.resetInput.resp = [] ∧ s.resetInput.out = []

end
end

