-- ==== Sys2Proof/Laws/Decode.lean ====
section
/-! SUPPORT. The fields of an assembled header word, the loop-mode codes, and what the decoder does with a header whose
operand words have arrived. -/

namespace Sys2Proof

theorem header_toNat {op : Nat} (h : op < 256) (a : Byte) (imm : Half) :
    (header op a imm).toNat = op + 256 * a.toNat + 65536 * imm.toNat := by
  have ha := a.isLt
  have hi := imm.isLt
  simp only [header, BitVec.toNat_ofNat]
  omega

theorem headerOp_header {op : Nat} (h : op < 256) (a : Byte) (imm : Half) :
    (headerOp (header op a imm)).toNat = op := by
  have ha := a.isLt
  have hi := imm.isLt
  simp only [headerOp, BitVec.extractLsb'_toNat, header_toNat h, Nat.shiftRight_eq_div_pow]
  omega

theorem headerA_header {op : Nat} (h : op < 256) (a : Byte) (imm : Half) : headerA (header op a imm) = a := by
  have ha := a.isLt
  have hi := imm.isLt
  apply BitVec.eq_of_toNat_eq
  simp only [headerA, BitVec.extractLsb'_toNat, header_toNat h, Nat.shiftRight_eq_div_pow]
  omega

theorem headerImm_header {op : Nat} (h : op < 256) (a : Byte) (imm : Half) : headerImm (header op a imm) = imm := by
  have ha := a.isLt
  have hi := imm.isLt
  apply BitVec.eq_of_toNat_eq
  simp only [headerImm, BitVec.extractLsb'_toNat, header_toNat h, Nat.shiftRight_eq_div_pow]
  omega

theorem headerImmLow_header {op : Nat} (h : op < 256) (a : Byte) (imm : Half) :
    (headerImmLow (header op a imm)).toNat = imm.toNat % 256 := by
  have ha := a.isLt
  have hi := imm.isLt
  simp only [headerImmLow, BitVec.extractLsb'_toNat, header_toNat h, Nat.shiftRight_eq_div_pow]
  omega

/-- An 8-bit operand put into the immediate comes back from `imm[7:0]`. -/
theorem headerImmLow_header_byte {op : Nat} (h : op < 256) (a b : Byte) :
    headerImmLow (header op a (b.setWidth 16)) = b := by
  have hb := b.isLt
  apply BitVec.eq_of_toNat_eq
  rw [headerImmLow_header h, BitVec.toNat_setWidth]
  omega

theorem loopModeOfCode_loopModeCode (m : LoopMode) :
    loopModeOfCode ((BitVec.ofNat 32 (loopModeCode m)).extractLsb' 0 2) = m := by
  cases m <;> rfl

/-- The format field of RENDER holds the width code in its two low bits and the crush flag in the next. -/
theorem renderFormat_fields (width : BitVec 2) (crush : Bool) :
    (BitVec.ofNat 8 (width.toNat + 4 * crush.toNat)).extractLsb' 0 2 = width ∧
      (BitVec.ofNat 8 (width.toNat + 4 * crush.toNat)).getLsbD 2 = crush := by
  revert width crush
  decide

/-- The decoder on a header whose operand words `ops` have arrived (R91). -/
theorem decode_of_operands {h : Word} {ops rest : List Word} (hl : ops.length = operandCount h) :
    decode (h :: (ops ++ rest)) =
      match instrOf h ops with
      | some i => .instr i rest
      | none => .undefinedOpcode (headerOp h) rest := by
  have hlt : operandCount h ≤ ops.length + rest.length := by omega
  have htake : (ops ++ rest).take (operandCount h) = ops := by rw [← hl, List.take_left]
  have hdrop : (ops ++ rest).drop (operandCount h) = rest := by rw [← hl, List.drop_left]
  cases hi : instrOf h ops <;> simp [decode, hlt, htake, hdrop, hi]

theorem decode_incomplete {h : Word} {ws : List Word} (hl : ws.length < operandCount h) :
    decode (h :: ws) = .incomplete := by
  rw [decode, if_pos hl]

/-- Every header has a command or an undefined opcode, by the value of its opcode field (R93, R95). -/
theorem instrOf_none_iff (h : Word) (ops : List Word) : instrOf h ops = none ↔ 0x1E ≤ (headerOp h).toNat := by
  have hb := (headerOp h).isLt
  unfold instrOf
  split <;> simp_all
  omega

end Sys2Proof
end

