-- ==== Sys2Proof/Laws/State.lean ====
section
/-! SUPPORT. The field lemmas of the named updates of a state and of a voice: one per field per update, so that no proof
unfolds a record update. -/

namespace Sys2Proof.Machine

/-! ## `State.respond` -/

@[simp] theorem State.respond_voices (s : State) (w : Word) : (s.respond w).voices = s.voices := rfl
@[simp] theorem State.respond_master (s : State) (w : Word) : (s.respond w).master = s.master := rfl
@[simp] theorem State.respond_ctrlRate (s : State) (w : Word) : (s.respond w).ctrlRate = s.ctrlRate := rfl
@[simp] theorem State.respond_ctrlInterval (s : State) (w : Word) : (s.respond w).ctrlInterval = s.ctrlInterval := rfl
@[simp] theorem State.respond_ctrlCounter (s : State) (w : Word) : (s.respond w).ctrlCounter = s.ctrlCounter := rfl
@[simp] theorem State.respond_sreg (s : State) (w : Word) : (s.respond w).sreg = s.sreg := rfl
@[simp] theorem State.respond_wreg (s : State) (w : Word) : (s.respond w).wreg = s.wreg := rfl
@[simp] theorem State.respond_mix (s : State) (w : Word) : (s.respond w).mix = s.mix := rfl
@[simp] theorem State.respond_mem (s : State) (w : Word) : (s.respond w).mem = s.mem := rfl
@[simp] theorem State.respond_sineRom (s : State) (w : Word) : (s.respond w).sineRom = s.sineRom := rfl
@[simp] theorem State.respond_fs (s : State) (w : Word) : (s.respond w).fs = s.fs := rfl
@[simp] theorem State.respond_nibbleOrder (s : State) (w : Word) : (s.respond w).nibbleOrder = s.nibbleOrder := rfl
@[simp] theorem State.respond_cmd (s : State) (w : Word) : (s.respond w).cmd = s.cmd := rfl
@[simp] theorem State.respond_resp (s : State) (w : Word) : (s.respond w).resp = s.resp ++ [w] := rfl
@[simp] theorem State.respond_out (s : State) (w : Word) : (s.respond w).out = s.out := rfl

/-! ## `State.emit` -/

@[simp] theorem State.emit_voices (s : State) (ws : List Word) : (s.emit ws).voices = s.voices := rfl
@[simp] theorem State.emit_master (s : State) (ws : List Word) : (s.emit ws).master = s.master := rfl
@[simp] theorem State.emit_ctrlRate (s : State) (ws : List Word) : (s.emit ws).ctrlRate = s.ctrlRate := rfl
@[simp] theorem State.emit_ctrlInterval (s : State) (ws : List Word) :
    (s.emit ws).ctrlInterval = s.ctrlInterval := rfl
@[simp] theorem State.emit_ctrlCounter (s : State) (ws : List Word) : (s.emit ws).ctrlCounter = s.ctrlCounter := rfl
@[simp] theorem State.emit_sreg (s : State) (ws : List Word) : (s.emit ws).sreg = s.sreg := rfl
@[simp] theorem State.emit_wreg (s : State) (ws : List Word) : (s.emit ws).wreg = s.wreg := rfl
@[simp] theorem State.emit_mix (s : State) (ws : List Word) : (s.emit ws).mix = s.mix := rfl
@[simp] theorem State.emit_mem (s : State) (ws : List Word) : (s.emit ws).mem = s.mem := rfl
@[simp] theorem State.emit_sineRom (s : State) (ws : List Word) : (s.emit ws).sineRom = s.sineRom := rfl
@[simp] theorem State.emit_fs (s : State) (ws : List Word) : (s.emit ws).fs = s.fs := rfl
@[simp] theorem State.emit_nibbleOrder (s : State) (ws : List Word) : (s.emit ws).nibbleOrder = s.nibbleOrder := rfl
@[simp] theorem State.emit_cmd (s : State) (ws : List Word) : (s.emit ws).cmd = s.cmd := rfl
@[simp] theorem State.emit_resp (s : State) (ws : List Word) : (s.emit ws).resp = s.resp := rfl
@[simp] theorem State.emit_out (s : State) (ws : List Word) : (s.emit ws).out = s.out ++ ws := rfl

/-! ## `State.send` -/

@[simp] theorem State.send_voices (s : State) (ws : List Word) : (s.send ws).voices = s.voices := rfl
@[simp] theorem State.send_master (s : State) (ws : List Word) : (s.send ws).master = s.master := rfl
@[simp] theorem State.send_ctrlRate (s : State) (ws : List Word) : (s.send ws).ctrlRate = s.ctrlRate := rfl
@[simp] theorem State.send_ctrlInterval (s : State) (ws : List Word) :
    (s.send ws).ctrlInterval = s.ctrlInterval := rfl
@[simp] theorem State.send_ctrlCounter (s : State) (ws : List Word) : (s.send ws).ctrlCounter = s.ctrlCounter := rfl
@[simp] theorem State.send_sreg (s : State) (ws : List Word) : (s.send ws).sreg = s.sreg := rfl
@[simp] theorem State.send_wreg (s : State) (ws : List Word) : (s.send ws).wreg = s.wreg := rfl
@[simp] theorem State.send_mix (s : State) (ws : List Word) : (s.send ws).mix = s.mix := rfl
@[simp] theorem State.send_mem (s : State) (ws : List Word) : (s.send ws).mem = s.mem := rfl
@[simp] theorem State.send_sineRom (s : State) (ws : List Word) : (s.send ws).sineRom = s.sineRom := rfl
@[simp] theorem State.send_fs (s : State) (ws : List Word) : (s.send ws).fs = s.fs := rfl
@[simp] theorem State.send_nibbleOrder (s : State) (ws : List Word) : (s.send ws).nibbleOrder = s.nibbleOrder := rfl
@[simp] theorem State.send_cmd (s : State) (ws : List Word) : (s.send ws).cmd = s.cmd ++ ws := rfl
@[simp] theorem State.send_resp (s : State) (ws : List Word) : (s.send ws).resp = s.resp := rfl
@[simp] theorem State.send_out (s : State) (ws : List Word) : (s.send ws).out = s.out := rfl

/-! ## `State.platformWrite` -/

@[simp] theorem State.platformWrite_voices (s : State) (a : Word) (b : Byte) :
    (s.platformWrite a b).voices = s.voices := rfl
@[simp] theorem State.platformWrite_master (s : State) (a : Word) (b : Byte) :
    (s.platformWrite a b).master = s.master := rfl
@[simp] theorem State.platformWrite_ctrlRate (s : State) (a : Word) (b : Byte) :
    (s.platformWrite a b).ctrlRate = s.ctrlRate := rfl
@[simp] theorem State.platformWrite_ctrlInterval (s : State) (a : Word) (b : Byte) :
    (s.platformWrite a b).ctrlInterval = s.ctrlInterval := rfl
@[simp] theorem State.platformWrite_ctrlCounter (s : State) (a : Word) (b : Byte) :
    (s.platformWrite a b).ctrlCounter = s.ctrlCounter := rfl
@[simp] theorem State.platformWrite_sreg (s : State) (a : Word) (b : Byte) :
    (s.platformWrite a b).sreg = s.sreg := rfl
@[simp] theorem State.platformWrite_wreg (s : State) (a : Word) (b : Byte) :
    (s.platformWrite a b).wreg = s.wreg := rfl
@[simp] theorem State.platformWrite_mix (s : State) (a : Word) (b : Byte) : (s.platformWrite a b).mix = s.mix := rfl
@[simp] theorem State.platformWrite_mem (s : State) (a : Word) (b : Byte) :
    (s.platformWrite a b).mem = putByte s.mem a.toNat b := rfl
@[simp] theorem State.platformWrite_sineRom (s : State) (a : Word) (b : Byte) :
    (s.platformWrite a b).sineRom = s.sineRom := rfl
@[simp] theorem State.platformWrite_fs (s : State) (a : Word) (b : Byte) : (s.platformWrite a b).fs = s.fs := rfl
@[simp] theorem State.platformWrite_nibbleOrder (s : State) (a : Word) (b : Byte) :
    (s.platformWrite a b).nibbleOrder = s.nibbleOrder := rfl
@[simp] theorem State.platformWrite_cmd (s : State) (a : Word) (b : Byte) : (s.platformWrite a b).cmd = s.cmd := rfl
@[simp] theorem State.platformWrite_resp (s : State) (a : Word) (b : Byte) :
    (s.platformWrite a b).resp = s.resp := rfl
@[simp] theorem State.platformWrite_out (s : State) (a : Word) (b : Byte) : (s.platformWrite a b).out = s.out := rfl

/-! ## `State.runScheduler` -/

@[simp] theorem State.runScheduler_master (s : State) (n : Nat) : (runScheduler n s).master = s.master := rfl
@[simp] theorem State.runScheduler_ctrlRate (s : State) (n : Nat) : (runScheduler n s).ctrlRate = s.ctrlRate := rfl
@[simp] theorem State.runScheduler_ctrlInterval (s : State) (n : Nat) :
    (runScheduler n s).ctrlInterval = s.ctrlInterval := rfl
@[simp] theorem State.runScheduler_sreg (s : State) (n : Nat) : (runScheduler n s).sreg = s.sreg := rfl
@[simp] theorem State.runScheduler_wreg (s : State) (n : Nat) : (runScheduler n s).wreg = s.wreg := rfl
@[simp] theorem State.runScheduler_mix (s : State) (n : Nat) : (runScheduler n s).mix = s.mix := rfl
@[simp] theorem State.runScheduler_mem (s : State) (n : Nat) : (runScheduler n s).mem = s.mem := rfl
@[simp] theorem State.runScheduler_sineRom (s : State) (n : Nat) : (runScheduler n s).sineRom = s.sineRom := rfl
@[simp] theorem State.runScheduler_fs (s : State) (n : Nat) : (runScheduler n s).fs = s.fs := rfl
@[simp] theorem State.runScheduler_nibbleOrder (s : State) (n : Nat) :
    (runScheduler n s).nibbleOrder = s.nibbleOrder := rfl
@[simp] theorem State.runScheduler_cmd (s : State) (n : Nat) : (runScheduler n s).cmd = s.cmd := rfl
@[simp] theorem State.runScheduler_resp (s : State) (n : Nat) : (runScheduler n s).resp = s.resp := rfl
@[simp] theorem State.runScheduler_out (s : State) (n : Nat) : (runScheduler n s).out = s.out := rfl

/-! ## `State.renderBlock` -/

@[simp] theorem State.renderBlock_master (s : State) (n : Nat) : (renderBlock n s).master = s.master := rfl
@[simp] theorem State.renderBlock_ctrlRate (s : State) (n : Nat) : (renderBlock n s).ctrlRate = s.ctrlRate := rfl
@[simp] theorem State.renderBlock_ctrlInterval (s : State) (n : Nat) :
    (renderBlock n s).ctrlInterval = s.ctrlInterval := rfl
@[simp] theorem State.renderBlock_ctrlCounter (s : State) (n : Nat) :
    (renderBlock n s).ctrlCounter = s.ctrlCounter := rfl
@[simp] theorem State.renderBlock_sreg (s : State) (n : Nat) : (renderBlock n s).sreg = s.sreg := rfl
@[simp] theorem State.renderBlock_wreg (s : State) (n : Nat) : (renderBlock n s).wreg = s.wreg := rfl
@[simp] theorem State.renderBlock_mem (s : State) (n : Nat) : (renderBlock n s).mem = s.mem := rfl
@[simp] theorem State.renderBlock_sineRom (s : State) (n : Nat) : (renderBlock n s).sineRom = s.sineRom := rfl
@[simp] theorem State.renderBlock_fs (s : State) (n : Nat) : (renderBlock n s).fs = s.fs := rfl
@[simp] theorem State.renderBlock_nibbleOrder (s : State) (n : Nat) :
    (renderBlock n s).nibbleOrder = s.nibbleOrder := rfl
@[simp] theorem State.renderBlock_cmd (s : State) (n : Nat) : (renderBlock n s).cmd = s.cmd := rfl
@[simp] theorem State.renderBlock_resp (s : State) (n : Nat) : (renderBlock n s).resp = s.resp := rfl
@[simp] theorem State.renderBlock_out (s : State) (n : Nat) : (renderBlock n s).out = s.out := rfl

/-! ## `State.emitBlock` -/

@[simp] theorem State.emitBlock_voices (s : State) (n : Nat) (w : OutWidth) (c : Bool) :
    (emitBlock n w c s).voices = s.voices := rfl
@[simp] theorem State.emitBlock_master (s : State) (n : Nat) (w : OutWidth) (c : Bool) :
    (emitBlock n w c s).master = s.master := rfl
@[simp] theorem State.emitBlock_ctrlRate (s : State) (n : Nat) (w : OutWidth) (c : Bool) :
    (emitBlock n w c s).ctrlRate = s.ctrlRate := rfl
@[simp] theorem State.emitBlock_ctrlInterval (s : State) (n : Nat) (w : OutWidth) (c : Bool) :
    (emitBlock n w c s).ctrlInterval = s.ctrlInterval := rfl
@[simp] theorem State.emitBlock_ctrlCounter (s : State) (n : Nat) (w : OutWidth) (c : Bool) :
    (emitBlock n w c s).ctrlCounter = s.ctrlCounter := rfl
@[simp] theorem State.emitBlock_sreg (s : State) (n : Nat) (w : OutWidth) (c : Bool) :
    (emitBlock n w c s).sreg = s.sreg := rfl
@[simp] theorem State.emitBlock_wreg (s : State) (n : Nat) (w : OutWidth) (c : Bool) :
    (emitBlock n w c s).wreg = s.wreg := rfl
@[simp] theorem State.emitBlock_mix (s : State) (n : Nat) (w : OutWidth) (c : Bool) :
    (emitBlock n w c s).mix = s.mix := rfl
@[simp] theorem State.emitBlock_mem (s : State) (n : Nat) (w : OutWidth) (c : Bool) :
    (emitBlock n w c s).mem = s.mem := rfl
@[simp] theorem State.emitBlock_sineRom (s : State) (n : Nat) (w : OutWidth) (c : Bool) :
    (emitBlock n w c s).sineRom = s.sineRom := rfl
@[simp] theorem State.emitBlock_fs (s : State) (n : Nat) (w : OutWidth) (c : Bool) :
    (emitBlock n w c s).fs = s.fs := rfl
@[simp] theorem State.emitBlock_nibbleOrder (s : State) (n : Nat) (w : OutWidth) (c : Bool) :
    (emitBlock n w c s).nibbleOrder = s.nibbleOrder := rfl
@[simp] theorem State.emitBlock_cmd (s : State) (n : Nat) (w : OutWidth) (c : Bool) :
    (emitBlock n w c s).cmd = s.cmd := rfl
@[simp] theorem State.emitBlock_resp (s : State) (n : Nat) (w : OutWidth) (c : Bool) :
    (emitBlock n w c s).resp = s.resp := rfl

/-! ## `State.updateVoice` -/

@[simp] theorem State.updateVoice_master (s : State) (v : Byte) (f : Voice → Voice) :
    (s.updateVoice v f).master = s.master := by unfold State.updateVoice; split <;> rfl
@[simp] theorem State.updateVoice_ctrlRate (s : State) (v : Byte) (f : Voice → Voice) :
    (s.updateVoice v f).ctrlRate = s.ctrlRate := by unfold State.updateVoice; split <;> rfl
@[simp] theorem State.updateVoice_ctrlInterval (s : State) (v : Byte) (f : Voice → Voice) :
    (s.updateVoice v f).ctrlInterval = s.ctrlInterval := by unfold State.updateVoice; split <;> rfl
@[simp] theorem State.updateVoice_ctrlCounter (s : State) (v : Byte) (f : Voice → Voice) :
    (s.updateVoice v f).ctrlCounter = s.ctrlCounter := by unfold State.updateVoice; split <;> rfl
@[simp] theorem State.updateVoice_sreg (s : State) (v : Byte) (f : Voice → Voice) :
    (s.updateVoice v f).sreg = s.sreg := by unfold State.updateVoice; split <;> rfl
@[simp] theorem State.updateVoice_wreg (s : State) (v : Byte) (f : Voice → Voice) :
    (s.updateVoice v f).wreg = s.wreg := by unfold State.updateVoice; split <;> rfl
@[simp] theorem State.updateVoice_mix (s : State) (v : Byte) (f : Voice → Voice) :
    (s.updateVoice v f).mix = s.mix := by unfold State.updateVoice; split <;> rfl
@[simp] theorem State.updateVoice_mem (s : State) (v : Byte) (f : Voice → Voice) :
    (s.updateVoice v f).mem = s.mem := by unfold State.updateVoice; split <;> rfl
@[simp] theorem State.updateVoice_sineRom (s : State) (v : Byte) (f : Voice → Voice) :
    (s.updateVoice v f).sineRom = s.sineRom := by unfold State.updateVoice; split <;> rfl
@[simp] theorem State.updateVoice_fs (s : State) (v : Byte) (f : Voice → Voice) :
    (s.updateVoice v f).fs = s.fs := by unfold State.updateVoice; split <;> rfl
@[simp] theorem State.updateVoice_nibbleOrder (s : State) (v : Byte) (f : Voice → Voice) :
    (s.updateVoice v f).nibbleOrder = s.nibbleOrder := by unfold State.updateVoice; split <;> rfl
@[simp] theorem State.updateVoice_cmd (s : State) (v : Byte) (f : Voice → Voice) :
    (s.updateVoice v f).cmd = s.cmd := by unfold State.updateVoice; split <;> rfl
@[simp] theorem State.updateVoice_resp (s : State) (v : Byte) (f : Voice → Voice) :
    (s.updateVoice v f).resp = s.resp := by unfold State.updateVoice; split <;> rfl
@[simp] theorem State.updateVoice_out (s : State) (v : Byte) (f : Voice → Voice) :
    (s.updateVoice v f).out = s.out := by unfold State.updateVoice; split <;> rfl

/-! ## `State.answer` -/

@[simp] theorem State.answer_voices (s : State) (v : Byte) (g : Voice → Word) :
    (s.answer v g).voices = s.voices := by unfold State.answer; split <;> rfl
@[simp] theorem State.answer_master (s : State) (v : Byte) (g : Voice → Word) :
    (s.answer v g).master = s.master := by unfold State.answer; split <;> rfl
@[simp] theorem State.answer_ctrlRate (s : State) (v : Byte) (g : Voice → Word) :
    (s.answer v g).ctrlRate = s.ctrlRate := by unfold State.answer; split <;> rfl
@[simp] theorem State.answer_ctrlInterval (s : State) (v : Byte) (g : Voice → Word) :
    (s.answer v g).ctrlInterval = s.ctrlInterval := by unfold State.answer; split <;> rfl
@[simp] theorem State.answer_ctrlCounter (s : State) (v : Byte) (g : Voice → Word) :
    (s.answer v g).ctrlCounter = s.ctrlCounter := by unfold State.answer; split <;> rfl
@[simp] theorem State.answer_sreg (s : State) (v : Byte) (g : Voice → Word) :
    (s.answer v g).sreg = s.sreg := by unfold State.answer; split <;> rfl
@[simp] theorem State.answer_wreg (s : State) (v : Byte) (g : Voice → Word) :
    (s.answer v g).wreg = s.wreg := by unfold State.answer; split <;> rfl
@[simp] theorem State.answer_mix (s : State) (v : Byte) (g : Voice → Word) :
    (s.answer v g).mix = s.mix := by unfold State.answer; split <;> rfl
@[simp] theorem State.answer_mem (s : State) (v : Byte) (g : Voice → Word) :
    (s.answer v g).mem = s.mem := by unfold State.answer; split <;> rfl
@[simp] theorem State.answer_sineRom (s : State) (v : Byte) (g : Voice → Word) :
    (s.answer v g).sineRom = s.sineRom := by unfold State.answer; split <;> rfl
@[simp] theorem State.answer_fs (s : State) (v : Byte) (g : Voice → Word) :
    (s.answer v g).fs = s.fs := by unfold State.answer; split <;> rfl
@[simp] theorem State.answer_nibbleOrder (s : State) (v : Byte) (g : Voice → Word) :
    (s.answer v g).nibbleOrder = s.nibbleOrder := by unfold State.answer; split <;> rfl
@[simp] theorem State.answer_cmd (s : State) (v : Byte) (g : Voice → Word) :
    (s.answer v g).cmd = s.cmd := by unfold State.answer; split <;> rfl
@[simp] theorem State.answer_out (s : State) (v : Byte) (g : Voice → Word) :
    (s.answer v g).out = s.out := by unfold State.answer; split <;> rfl

/-! ## The surroundings of a voice after an update -/

@[simp] theorem State.respond_ctx (s : State) (w : Word) : (s.respond w).ctx = s.ctx := rfl
@[simp] theorem State.emit_ctx (s : State) (ws : List Word) : (s.emit ws).ctx = s.ctx := rfl
@[simp] theorem State.send_ctx (s : State) (ws : List Word) : (s.send ws).ctx = s.ctx := rfl
@[simp] theorem State.runScheduler_ctx (s : State) (n : Nat) : (runScheduler n s).ctx = s.ctx := rfl
@[simp] theorem State.renderBlock_ctx (s : State) (n : Nat) : (renderBlock n s).ctx = s.ctx := rfl
@[simp] theorem State.updateVoice_ctx (s : State) (v : Byte) (f : Voice → Voice) :
    (s.updateVoice v f).ctx = s.ctx := by
  unfold State.updateVoice; split <;> rfl
@[simp] theorem State.withCmd_ctx (s : State) (ws : List Word) : ({ s with cmd := ws } : State).ctx = s.ctx := rfl

/-! ## `Voice.enterIdle` -/

@[simp] theorem Voice.enterIdle_active (x : Voice) : (x.enterIdle).active = false := rfl
@[simp] theorem Voice.enterIdle_envState (x : Voice) : (x.enterIdle).envState = .idle := rfl
@[simp] theorem Voice.enterIdle_freq (x : Voice) : (x.enterIdle).freq = x.freq := rfl
@[simp] theorem Voice.enterIdle_phase (x : Voice) : (x.enterIdle).phase = x.phase := rfl
@[simp] theorem Voice.enterIdle_phaseInc (x : Voice) : (x.enterIdle).phaseInc = x.phaseInc := rfl
@[simp] theorem Voice.enterIdle_volume (x : Voice) : (x.enterIdle).volume = x.volume := rfl
@[simp] theorem Voice.enterIdle_envValue (x : Voice) : (x.enterIdle).envValue = 0 := rfl
@[simp] theorem Voice.enterIdle_rateAttack (x : Voice) : (x.enterIdle).rateAttack = x.rateAttack := rfl
@[simp] theorem Voice.enterIdle_rateDecay (x : Voice) : (x.enterIdle).rateDecay = x.rateDecay := rfl
@[simp] theorem Voice.enterIdle_rateRelease (x : Voice) : (x.enterIdle).rateRelease = x.rateRelease := rfl
@[simp] theorem Voice.enterIdle_sustain (x : Voice) : (x.enterIdle).sustain = x.sustain := rfl
@[simp] theorem Voice.enterIdle_kind (x : Voice) : (x.enterIdle).kind = x.kind := rfl
@[simp] theorem Voice.enterIdle_shape (x : Voice) : (x.enterIdle).shape = x.shape := rfl
@[simp] theorem Voice.enterIdle_pulseWidth (x : Voice) : (x.enterIdle).pulseWidth = x.pulseWidth := rfl
@[simp] theorem Voice.enterIdle_wtId (x : Voice) : (x.enterIdle).wtId = x.wtId := rfl
@[simp] theorem Voice.enterIdle_smpId (x : Voice) : (x.enterIdle).smpId = x.smpId := rfl
@[simp] theorem Voice.enterIdle_loopMode (x : Voice) : (x.enterIdle).loopMode = x.loopMode := rfl
@[simp] theorem Voice.enterIdle_loopStart (x : Voice) : (x.enterIdle).loopStart = x.loopStart := rfl
@[simp] theorem Voice.enterIdle_loopEnd (x : Voice) : (x.enterIdle).loopEnd = x.loopEnd := rfl
@[simp] theorem Voice.enterIdle_smpPos (x : Voice) : (x.enterIdle).smpPos = x.smpPos := rfl
@[simp] theorem Voice.enterIdle_smpDir (x : Voice) : (x.enterIdle).smpDir = x.smpDir := rfl
@[simp] theorem Voice.enterIdle_smpFinished (x : Voice) : (x.enterIdle).smpFinished = x.smpFinished := rfl
@[simp] theorem Voice.enterIdle_rootOverride (x : Voice) : (x.enterIdle).rootOverride = x.rootOverride := rfl
@[simp] theorem Voice.enterIdle_noiseSeed (x : Voice) : (x.enterIdle).noiseSeed = x.noiseSeed := rfl
@[simp] theorem Voice.enterIdle_vibPhase (x : Voice) : (x.enterIdle).vibPhase = x.vibPhase := rfl
@[simp] theorem Voice.enterIdle_vibRate (x : Voice) : (x.enterIdle).vibRate = x.vibRate := rfl
@[simp] theorem Voice.enterIdle_vibDepth (x : Voice) : (x.enterIdle).vibDepth = x.vibDepth := rfl
@[simp] theorem Voice.enterIdle_vibOffset (x : Voice) : (x.enterIdle).vibOffset = x.vibOffset := rfl
@[simp] theorem Voice.enterIdle_tremPhase (x : Voice) : (x.enterIdle).tremPhase = x.tremPhase := rfl
@[simp] theorem Voice.enterIdle_tremRate (x : Voice) : (x.enterIdle).tremRate = x.tremRate := rfl
@[simp] theorem Voice.enterIdle_tremDepth (x : Voice) : (x.enterIdle).tremDepth = x.tremDepth := rfl
@[simp] theorem Voice.enterIdle_tremGain (x : Voice) : (x.enterIdle).tremGain = x.tremGain := rfl
@[simp] theorem Voice.enterIdle_glideActive (x : Voice) : (x.enterIdle).glideActive = x.glideActive := rfl
@[simp] theorem Voice.enterIdle_glideDelta (x : Voice) : (x.enterIdle).glideDelta = x.glideDelta := rfl
@[simp] theorem Voice.enterIdle_glideRem (x : Voice) : (x.enterIdle).glideRem = x.glideRem := rfl
@[simp] theorem Voice.enterIdle_glideRemAcc (x : Voice) : (x.enterIdle).glideRemAcc = x.glideRemAcc := rfl
@[simp] theorem Voice.enterIdle_glideTarget (x : Voice) : (x.enterIdle).glideTarget = x.glideTarget := rfl
@[simp] theorem Voice.enterIdle_glideTicks (x : Voice) : (x.enterIdle).glideTicks = x.glideTicks := rfl
@[simp] theorem Voice.enterIdle_glideLeft (x : Voice) : (x.enterIdle).glideLeft = x.glideLeft := rfl
@[simp] theorem Voice.enterIdle_arpLen (x : Voice) : (x.enterIdle).arpLen = x.arpLen := rfl
@[simp] theorem Voice.enterIdle_arpNotes (x : Voice) : (x.enterIdle).arpNotes = x.arpNotes := rfl
@[simp] theorem Voice.enterIdle_arpIndex (x : Voice) : (x.enterIdle).arpIndex = x.arpIndex := rfl
@[simp] theorem Voice.enterIdle_arpCounter (x : Voice) : (x.enterIdle).arpCounter = x.arpCounter := rfl
@[simp] theorem Voice.enterIdle_arpSpeedMs (x : Voice) : (x.enterIdle).arpSpeedMs = x.arpSpeedMs := rfl
@[simp] theorem Voice.enterIdle_trkAddr (x : Voice) : (x.enterIdle).trkAddr = x.trkAddr := rfl
@[simp] theorem Voice.enterIdle_smpInstAddr (x : Voice) : (x.enterIdle).smpInstAddr = x.smpInstAddr := rfl
@[simp] theorem Voice.enterIdle_trkStage (x : Voice) : (x.enterIdle).trkStage = x.trkStage := rfl
@[simp] theorem Voice.enterIdle_trkTick (x : Voice) : (x.enterIdle).trkTick = x.trkTick := rfl
@[simp] theorem Voice.enterIdle_trkCur (x : Voice) : (x.enterIdle).trkCur = x.trkCur := rfl
@[simp] theorem Voice.enterIdle_trkNext (x : Voice) : (x.enterIdle).trkNext = x.trkNext := rfl
@[simp] theorem Voice.enterIdle_trkMorph (x : Voice) : (x.enterIdle).trkMorph = x.trkMorph := rfl
@[simp] theorem Voice.enterIdle_trkVol (x : Voice) : (x.enterIdle).trkVol = x.trkVol := rfl

/-! ## `Voice.finishSample` -/

@[simp] theorem Voice.finishSample_active (x : Voice) : (x.finishSample).active = false := rfl
@[simp] theorem Voice.finishSample_envState (x : Voice) : (x.finishSample).envState = .idle := rfl
@[simp] theorem Voice.finishSample_freq (x : Voice) : (x.finishSample).freq = x.freq := rfl
@[simp] theorem Voice.finishSample_phase (x : Voice) : (x.finishSample).phase = x.phase := rfl
@[simp] theorem Voice.finishSample_phaseInc (x : Voice) : (x.finishSample).phaseInc = x.phaseInc := rfl
@[simp] theorem Voice.finishSample_volume (x : Voice) : (x.finishSample).volume = x.volume := rfl
@[simp] theorem Voice.finishSample_envValue (x : Voice) : (x.finishSample).envValue = 0 := rfl
@[simp] theorem Voice.finishSample_rateAttack (x : Voice) : (x.finishSample).rateAttack = x.rateAttack := rfl
@[simp] theorem Voice.finishSample_rateDecay (x : Voice) : (x.finishSample).rateDecay = x.rateDecay := rfl
@[simp] theorem Voice.finishSample_rateRelease (x : Voice) : (x.finishSample).rateRelease = x.rateRelease := rfl
@[simp] theorem Voice.finishSample_sustain (x : Voice) : (x.finishSample).sustain = x.sustain := rfl
@[simp] theorem Voice.finishSample_kind (x : Voice) : (x.finishSample).kind = x.kind := rfl
@[simp] theorem Voice.finishSample_shape (x : Voice) : (x.finishSample).shape = x.shape := rfl
@[simp] theorem Voice.finishSample_pulseWidth (x : Voice) : (x.finishSample).pulseWidth = x.pulseWidth := rfl
@[simp] theorem Voice.finishSample_wtId (x : Voice) : (x.finishSample).wtId = x.wtId := rfl
@[simp] theorem Voice.finishSample_smpId (x : Voice) : (x.finishSample).smpId = x.smpId := rfl
@[simp] theorem Voice.finishSample_loopMode (x : Voice) : (x.finishSample).loopMode = x.loopMode := rfl
@[simp] theorem Voice.finishSample_loopStart (x : Voice) : (x.finishSample).loopStart = x.loopStart := rfl
@[simp] theorem Voice.finishSample_loopEnd (x : Voice) : (x.finishSample).loopEnd = x.loopEnd := rfl
@[simp] theorem Voice.finishSample_smpPos (x : Voice) : (x.finishSample).smpPos = x.smpPos := rfl
@[simp] theorem Voice.finishSample_smpDir (x : Voice) : (x.finishSample).smpDir = x.smpDir := rfl
@[simp] theorem Voice.finishSample_smpFinished (x : Voice) : (x.finishSample).smpFinished = true := rfl
@[simp] theorem Voice.finishSample_rootOverride (x : Voice) : (x.finishSample).rootOverride = x.rootOverride := rfl
@[simp] theorem Voice.finishSample_noiseSeed (x : Voice) : (x.finishSample).noiseSeed = x.noiseSeed := rfl
@[simp] theorem Voice.finishSample_vibPhase (x : Voice) : (x.finishSample).vibPhase = x.vibPhase := rfl
@[simp] theorem Voice.finishSample_vibRate (x : Voice) : (x.finishSample).vibRate = x.vibRate := rfl
@[simp] theorem Voice.finishSample_vibDepth (x : Voice) : (x.finishSample).vibDepth = x.vibDepth := rfl
@[simp] theorem Voice.finishSample_vibOffset (x : Voice) : (x.finishSample).vibOffset = x.vibOffset := rfl
@[simp] theorem Voice.finishSample_tremPhase (x : Voice) : (x.finishSample).tremPhase = x.tremPhase := rfl
@[simp] theorem Voice.finishSample_tremRate (x : Voice) : (x.finishSample).tremRate = x.tremRate := rfl
@[simp] theorem Voice.finishSample_tremDepth (x : Voice) : (x.finishSample).tremDepth = x.tremDepth := rfl
@[simp] theorem Voice.finishSample_tremGain (x : Voice) : (x.finishSample).tremGain = x.tremGain := rfl
@[simp] theorem Voice.finishSample_glideActive (x : Voice) : (x.finishSample).glideActive = x.glideActive := rfl
@[simp] theorem Voice.finishSample_glideDelta (x : Voice) : (x.finishSample).glideDelta = x.glideDelta := rfl
@[simp] theorem Voice.finishSample_glideRem (x : Voice) : (x.finishSample).glideRem = x.glideRem := rfl
@[simp] theorem Voice.finishSample_glideRemAcc (x : Voice) : (x.finishSample).glideRemAcc = x.glideRemAcc := rfl
@[simp] theorem Voice.finishSample_glideTarget (x : Voice) : (x.finishSample).glideTarget = x.glideTarget := rfl
@[simp] theorem Voice.finishSample_glideTicks (x : Voice) : (x.finishSample).glideTicks = x.glideTicks := rfl
@[simp] theorem Voice.finishSample_glideLeft (x : Voice) : (x.finishSample).glideLeft = x.glideLeft := rfl
@[simp] theorem Voice.finishSample_arpLen (x : Voice) : (x.finishSample).arpLen = x.arpLen := rfl
@[simp] theorem Voice.finishSample_arpNotes (x : Voice) : (x.finishSample).arpNotes = x.arpNotes := rfl
@[simp] theorem Voice.finishSample_arpIndex (x : Voice) : (x.finishSample).arpIndex = x.arpIndex := rfl
@[simp] theorem Voice.finishSample_arpCounter (x : Voice) : (x.finishSample).arpCounter = x.arpCounter := rfl
@[simp] theorem Voice.finishSample_arpSpeedMs (x : Voice) : (x.finishSample).arpSpeedMs = x.arpSpeedMs := rfl
@[simp] theorem Voice.finishSample_trkAddr (x : Voice) : (x.finishSample).trkAddr = x.trkAddr := rfl
@[simp] theorem Voice.finishSample_smpInstAddr (x : Voice) : (x.finishSample).smpInstAddr = x.smpInstAddr := rfl
@[simp] theorem Voice.finishSample_trkStage (x : Voice) : (x.finishSample).trkStage = x.trkStage := rfl
@[simp] theorem Voice.finishSample_trkTick (x : Voice) : (x.finishSample).trkTick = x.trkTick := rfl
@[simp] theorem Voice.finishSample_trkCur (x : Voice) : (x.finishSample).trkCur = x.trkCur := rfl
@[simp] theorem Voice.finishSample_trkNext (x : Voice) : (x.finishSample).trkNext = x.trkNext := rfl
@[simp] theorem Voice.finishSample_trkMorph (x : Voice) : (x.finishSample).trkMorph = x.trkMorph := rfl
@[simp] theorem Voice.finishSample_trkVol (x : Voice) : (x.finishSample).trkVol = x.trkVol := rfl

/-! ## `Voice.claim` -/

@[simp] theorem Voice.claim_active (x : Voice) : (x.claim).active = true := rfl
@[simp] theorem Voice.claim_envState (x : Voice) : (x.claim).envState = .attack := rfl
@[simp] theorem Voice.claim_freq (x : Voice) : (x.claim).freq = x.freq := rfl
@[simp] theorem Voice.claim_phase (x : Voice) : (x.claim).phase = x.phase := rfl
@[simp] theorem Voice.claim_phaseInc (x : Voice) : (x.claim).phaseInc = x.phaseInc := rfl
@[simp] theorem Voice.claim_volume (x : Voice) : (x.claim).volume = x.volume := rfl
@[simp] theorem Voice.claim_envValue (x : Voice) : (x.claim).envValue = x.envValue := rfl
@[simp] theorem Voice.claim_rateAttack (x : Voice) : (x.claim).rateAttack = x.rateAttack := rfl
@[simp] theorem Voice.claim_rateDecay (x : Voice) : (x.claim).rateDecay = x.rateDecay := rfl
@[simp] theorem Voice.claim_rateRelease (x : Voice) : (x.claim).rateRelease = x.rateRelease := rfl
@[simp] theorem Voice.claim_sustain (x : Voice) : (x.claim).sustain = x.sustain := rfl
@[simp] theorem Voice.claim_kind (x : Voice) : (x.claim).kind = x.kind := rfl
@[simp] theorem Voice.claim_shape (x : Voice) : (x.claim).shape = x.shape := rfl
@[simp] theorem Voice.claim_pulseWidth (x : Voice) : (x.claim).pulseWidth = x.pulseWidth := rfl
@[simp] theorem Voice.claim_wtId (x : Voice) : (x.claim).wtId = x.wtId := rfl
@[simp] theorem Voice.claim_smpId (x : Voice) : (x.claim).smpId = x.smpId := rfl
@[simp] theorem Voice.claim_loopMode (x : Voice) : (x.claim).loopMode = x.loopMode := rfl
@[simp] theorem Voice.claim_loopStart (x : Voice) : (x.claim).loopStart = x.loopStart := rfl
@[simp] theorem Voice.claim_loopEnd (x : Voice) : (x.claim).loopEnd = x.loopEnd := rfl
@[simp] theorem Voice.claim_smpPos (x : Voice) : (x.claim).smpPos = x.smpPos := rfl
@[simp] theorem Voice.claim_smpDir (x : Voice) : (x.claim).smpDir = x.smpDir := rfl
@[simp] theorem Voice.claim_smpFinished (x : Voice) : (x.claim).smpFinished = false := rfl
@[simp] theorem Voice.claim_rootOverride (x : Voice) : (x.claim).rootOverride = x.rootOverride := rfl
@[simp] theorem Voice.claim_noiseSeed (x : Voice) : (x.claim).noiseSeed = x.noiseSeed := rfl
@[simp] theorem Voice.claim_vibPhase (x : Voice) : (x.claim).vibPhase = x.vibPhase := rfl
@[simp] theorem Voice.claim_vibRate (x : Voice) : (x.claim).vibRate = x.vibRate := rfl
@[simp] theorem Voice.claim_vibDepth (x : Voice) : (x.claim).vibDepth = x.vibDepth := rfl
@[simp] theorem Voice.claim_vibOffset (x : Voice) : (x.claim).vibOffset = x.vibOffset := rfl
@[simp] theorem Voice.claim_tremPhase (x : Voice) : (x.claim).tremPhase = x.tremPhase := rfl
@[simp] theorem Voice.claim_tremRate (x : Voice) : (x.claim).tremRate = x.tremRate := rfl
@[simp] theorem Voice.claim_tremDepth (x : Voice) : (x.claim).tremDepth = x.tremDepth := rfl
@[simp] theorem Voice.claim_tremGain (x : Voice) : (x.claim).tremGain = x.tremGain := rfl
@[simp] theorem Voice.claim_glideActive (x : Voice) : (x.claim).glideActive = false := rfl
@[simp] theorem Voice.claim_glideDelta (x : Voice) : (x.claim).glideDelta = x.glideDelta := rfl
@[simp] theorem Voice.claim_glideRem (x : Voice) : (x.claim).glideRem = x.glideRem := rfl
@[simp] theorem Voice.claim_glideRemAcc (x : Voice) : (x.claim).glideRemAcc = x.glideRemAcc := rfl
@[simp] theorem Voice.claim_glideTarget (x : Voice) : (x.claim).glideTarget = x.glideTarget := rfl
@[simp] theorem Voice.claim_glideTicks (x : Voice) : (x.claim).glideTicks = x.glideTicks := rfl
@[simp] theorem Voice.claim_glideLeft (x : Voice) : (x.claim).glideLeft = x.glideLeft := rfl
@[simp] theorem Voice.claim_arpLen (x : Voice) : (x.claim).arpLen = x.arpLen := rfl
@[simp] theorem Voice.claim_arpNotes (x : Voice) : (x.claim).arpNotes = x.arpNotes := rfl
@[simp] theorem Voice.claim_arpIndex (x : Voice) : (x.claim).arpIndex = x.arpIndex := rfl
@[simp] theorem Voice.claim_arpCounter (x : Voice) : (x.claim).arpCounter = x.arpCounter := rfl
@[simp] theorem Voice.claim_arpSpeedMs (x : Voice) : (x.claim).arpSpeedMs = x.arpSpeedMs := rfl
@[simp] theorem Voice.claim_trkAddr (x : Voice) : (x.claim).trkAddr = x.trkAddr := rfl
@[simp] theorem Voice.claim_smpInstAddr (x : Voice) : (x.claim).smpInstAddr = x.smpInstAddr := rfl
@[simp] theorem Voice.claim_trkStage (x : Voice) : (x.claim).trkStage = x.trkStage := rfl
@[simp] theorem Voice.claim_trkTick (x : Voice) : (x.claim).trkTick = x.trkTick := rfl
@[simp] theorem Voice.claim_trkCur (x : Voice) : (x.claim).trkCur = x.trkCur := rfl
@[simp] theorem Voice.claim_trkNext (x : Voice) : (x.claim).trkNext = x.trkNext := rfl
@[simp] theorem Voice.claim_trkMorph (x : Voice) : (x.claim).trkMorph = x.trkMorph := rfl
@[simp] theorem Voice.claim_trkVol (x : Voice) : (x.claim).trkVol = x.trkVol := rfl

/-! ## `Voice.setEnvValue` -/

@[simp] theorem Voice.setEnvValue_active (x : Voice) (y : Int) : (x.setEnvValue y).active = x.active := rfl
@[simp] theorem Voice.setEnvValue_envState (x : Voice) (y : Int) : (x.setEnvValue y).envState = x.envState := rfl
@[simp] theorem Voice.setEnvValue_freq (x : Voice) (y : Int) : (x.setEnvValue y).freq = x.freq := rfl
@[simp] theorem Voice.setEnvValue_phase (x : Voice) (y : Int) : (x.setEnvValue y).phase = x.phase := rfl
@[simp] theorem Voice.setEnvValue_phaseInc (x : Voice) (y : Int) : (x.setEnvValue y).phaseInc = x.phaseInc := rfl
@[simp] theorem Voice.setEnvValue_volume (x : Voice) (y : Int) : (x.setEnvValue y).volume = x.volume := rfl
@[simp] theorem Voice.setEnvValue_envValue (x : Voice) (y : Int) :
    (x.setEnvValue y).envValue = BitVec.ofInt 29 y := rfl
@[simp] theorem Voice.setEnvValue_rateAttack (x : Voice) (y : Int) :
    (x.setEnvValue y).rateAttack = x.rateAttack := rfl
@[simp] theorem Voice.setEnvValue_rateDecay (x : Voice) (y : Int) : (x.setEnvValue y).rateDecay = x.rateDecay := rfl
@[simp] theorem Voice.setEnvValue_rateRelease (x : Voice) (y : Int) :
    (x.setEnvValue y).rateRelease = x.rateRelease := rfl
@[simp] theorem Voice.setEnvValue_sustain (x : Voice) (y : Int) : (x.setEnvValue y).sustain = x.sustain := rfl
@[simp] theorem Voice.setEnvValue_kind (x : Voice) (y : Int) : (x.setEnvValue y).kind = x.kind := rfl
@[simp] theorem Voice.setEnvValue_shape (x : Voice) (y : Int) : (x.setEnvValue y).shape = x.shape := rfl
@[simp] theorem Voice.setEnvValue_pulseWidth (x : Voice) (y : Int) :
    (x.setEnvValue y).pulseWidth = x.pulseWidth := rfl
@[simp] theorem Voice.setEnvValue_wtId (x : Voice) (y : Int) : (x.setEnvValue y).wtId = x.wtId := rfl
@[simp] theorem Voice.setEnvValue_smpId (x : Voice) (y : Int) : (x.setEnvValue y).smpId = x.smpId := rfl
@[simp] theorem Voice.setEnvValue_loopMode (x : Voice) (y : Int) : (x.setEnvValue y).loopMode = x.loopMode := rfl
@[simp] theorem Voice.setEnvValue_loopStart (x : Voice) (y : Int) : (x.setEnvValue y).loopStart = x.loopStart := rfl
@[simp] theorem Voice.setEnvValue_loopEnd (x : Voice) (y : Int) : (x.setEnvValue y).loopEnd = x.loopEnd := rfl
@[simp] theorem Voice.setEnvValue_smpPos (x : Voice) (y : Int) : (x.setEnvValue y).smpPos = x.smpPos := rfl
@[simp] theorem Voice.setEnvValue_smpDir (x : Voice) (y : Int) : (x.setEnvValue y).smpDir = x.smpDir := rfl
@[simp] theorem Voice.setEnvValue_smpFinished (x : Voice) (y : Int) :
    (x.setEnvValue y).smpFinished = x.smpFinished := rfl
@[simp] theorem Voice.setEnvValue_rootOverride (x : Voice) (y : Int) :
    (x.setEnvValue y).rootOverride = x.rootOverride := rfl
@[simp] theorem Voice.setEnvValue_noiseSeed (x : Voice) (y : Int) : (x.setEnvValue y).noiseSeed = x.noiseSeed := rfl
@[simp] theorem Voice.setEnvValue_vibPhase (x : Voice) (y : Int) : (x.setEnvValue y).vibPhase = x.vibPhase := rfl
@[simp] theorem Voice.setEnvValue_vibRate (x : Voice) (y : Int) : (x.setEnvValue y).vibRate = x.vibRate := rfl
@[simp] theorem Voice.setEnvValue_vibDepth (x : Voice) (y : Int) : (x.setEnvValue y).vibDepth = x.vibDepth := rfl
@[simp] theorem Voice.setEnvValue_vibOffset (x : Voice) (y : Int) : (x.setEnvValue y).vibOffset = x.vibOffset := rfl
@[simp] theorem Voice.setEnvValue_tremPhase (x : Voice) (y : Int) : (x.setEnvValue y).tremPhase = x.tremPhase := rfl
@[simp] theorem Voice.setEnvValue_tremRate (x : Voice) (y : Int) : (x.setEnvValue y).tremRate = x.tremRate := rfl
@[simp] theorem Voice.setEnvValue_tremDepth (x : Voice) (y : Int) : (x.setEnvValue y).tremDepth = x.tremDepth := rfl
@[simp] theorem Voice.setEnvValue_tremGain (x : Voice) (y : Int) : (x.setEnvValue y).tremGain = x.tremGain := rfl
@[simp] theorem Voice.setEnvValue_glideActive (x : Voice) (y : Int) :
    (x.setEnvValue y).glideActive = x.glideActive := rfl
@[simp] theorem Voice.setEnvValue_glideDelta (x : Voice) (y : Int) :
    (x.setEnvValue y).glideDelta = x.glideDelta := rfl
@[simp] theorem Voice.setEnvValue_glideRem (x : Voice) (y : Int) : (x.setEnvValue y).glideRem = x.glideRem := rfl
@[simp] theorem Voice.setEnvValue_glideRemAcc (x : Voice) (y : Int) :
    (x.setEnvValue y).glideRemAcc = x.glideRemAcc := rfl
@[simp] theorem Voice.setEnvValue_glideTarget (x : Voice) (y : Int) :
    (x.setEnvValue y).glideTarget = x.glideTarget := rfl
@[simp] theorem Voice.setEnvValue_glideTicks (x : Voice) (y : Int) :
    (x.setEnvValue y).glideTicks = x.glideTicks := rfl
@[simp] theorem Voice.setEnvValue_glideLeft (x : Voice) (y : Int) : (x.setEnvValue y).glideLeft = x.glideLeft := rfl
@[simp] theorem Voice.setEnvValue_arpLen (x : Voice) (y : Int) : (x.setEnvValue y).arpLen = x.arpLen := rfl
@[simp] theorem Voice.setEnvValue_arpNotes (x : Voice) (y : Int) : (x.setEnvValue y).arpNotes = x.arpNotes := rfl
@[simp] theorem Voice.setEnvValue_arpIndex (x : Voice) (y : Int) : (x.setEnvValue y).arpIndex = x.arpIndex := rfl
@[simp] theorem Voice.setEnvValue_arpCounter (x : Voice) (y : Int) :
    (x.setEnvValue y).arpCounter = x.arpCounter := rfl
@[simp] theorem Voice.setEnvValue_arpSpeedMs (x : Voice) (y : Int) :
    (x.setEnvValue y).arpSpeedMs = x.arpSpeedMs := rfl
@[simp] theorem Voice.setEnvValue_trkAddr (x : Voice) (y : Int) : (x.setEnvValue y).trkAddr = x.trkAddr := rfl
@[simp] theorem Voice.setEnvValue_smpInstAddr (x : Voice) (y : Int) :
    (x.setEnvValue y).smpInstAddr = x.smpInstAddr := rfl
@[simp] theorem Voice.setEnvValue_trkStage (x : Voice) (y : Int) : (x.setEnvValue y).trkStage = x.trkStage := rfl
@[simp] theorem Voice.setEnvValue_trkTick (x : Voice) (y : Int) : (x.setEnvValue y).trkTick = x.trkTick := rfl
@[simp] theorem Voice.setEnvValue_trkCur (x : Voice) (y : Int) : (x.setEnvValue y).trkCur = x.trkCur := rfl
@[simp] theorem Voice.setEnvValue_trkNext (x : Voice) (y : Int) : (x.setEnvValue y).trkNext = x.trkNext := rfl
@[simp] theorem Voice.setEnvValue_trkMorph (x : Voice) (y : Int) : (x.setEnvValue y).trkMorph = x.trkMorph := rfl
@[simp] theorem Voice.setEnvValue_trkVol (x : Voice) (y : Int) : (x.setEnvValue y).trkVol = x.trkVol := rfl

/-! ## `Voice.firstStage` -/

@[simp] theorem Voice.firstStage_active (x : Voice) : (x.firstStage).active = x.active := rfl
@[simp] theorem Voice.firstStage_envState (x : Voice) : (x.firstStage).envState = x.envState := rfl
@[simp] theorem Voice.firstStage_freq (x : Voice) : (x.firstStage).freq = x.freq := rfl
@[simp] theorem Voice.firstStage_phase (x : Voice) : (x.firstStage).phase = x.phase := rfl
@[simp] theorem Voice.firstStage_phaseInc (x : Voice) : (x.firstStage).phaseInc = x.phaseInc := rfl
@[simp] theorem Voice.firstStage_volume (x : Voice) : (x.firstStage).volume = x.volume := rfl
@[simp] theorem Voice.firstStage_envValue (x : Voice) : (x.firstStage).envValue = x.envValue := rfl
@[simp] theorem Voice.firstStage_rateAttack (x : Voice) : (x.firstStage).rateAttack = x.rateAttack := rfl
@[simp] theorem Voice.firstStage_rateDecay (x : Voice) : (x.firstStage).rateDecay = x.rateDecay := rfl
@[simp] theorem Voice.firstStage_rateRelease (x : Voice) : (x.firstStage).rateRelease = x.rateRelease := rfl
@[simp] theorem Voice.firstStage_sustain (x : Voice) : (x.firstStage).sustain = x.sustain := rfl
@[simp] theorem Voice.firstStage_kind (x : Voice) : (x.firstStage).kind = x.kind := rfl
@[simp] theorem Voice.firstStage_shape (x : Voice) : (x.firstStage).shape = x.shape := rfl
@[simp] theorem Voice.firstStage_pulseWidth (x : Voice) : (x.firstStage).pulseWidth = x.pulseWidth := rfl
@[simp] theorem Voice.firstStage_wtId (x : Voice) : (x.firstStage).wtId = x.wtId := rfl
@[simp] theorem Voice.firstStage_smpId (x : Voice) : (x.firstStage).smpId = x.smpId := rfl
@[simp] theorem Voice.firstStage_loopMode (x : Voice) : (x.firstStage).loopMode = x.loopMode := rfl
@[simp] theorem Voice.firstStage_loopStart (x : Voice) : (x.firstStage).loopStart = x.loopStart := rfl
@[simp] theorem Voice.firstStage_loopEnd (x : Voice) : (x.firstStage).loopEnd = x.loopEnd := rfl
@[simp] theorem Voice.firstStage_smpPos (x : Voice) : (x.firstStage).smpPos = x.smpPos := rfl
@[simp] theorem Voice.firstStage_smpDir (x : Voice) : (x.firstStage).smpDir = x.smpDir := rfl
@[simp] theorem Voice.firstStage_smpFinished (x : Voice) : (x.firstStage).smpFinished = x.smpFinished := rfl
@[simp] theorem Voice.firstStage_rootOverride (x : Voice) : (x.firstStage).rootOverride = x.rootOverride := rfl
@[simp] theorem Voice.firstStage_noiseSeed (x : Voice) : (x.firstStage).noiseSeed = x.noiseSeed := rfl
@[simp] theorem Voice.firstStage_vibPhase (x : Voice) : (x.firstStage).vibPhase = x.vibPhase := rfl
@[simp] theorem Voice.firstStage_vibRate (x : Voice) : (x.firstStage).vibRate = x.vibRate := rfl
@[simp] theorem Voice.firstStage_vibDepth (x : Voice) : (x.firstStage).vibDepth = x.vibDepth := rfl
@[simp] theorem Voice.firstStage_vibOffset (x : Voice) : (x.firstStage).vibOffset = x.vibOffset := rfl
@[simp] theorem Voice.firstStage_tremPhase (x : Voice) : (x.firstStage).tremPhase = x.tremPhase := rfl
@[simp] theorem Voice.firstStage_tremRate (x : Voice) : (x.firstStage).tremRate = x.tremRate := rfl
@[simp] theorem Voice.firstStage_tremDepth (x : Voice) : (x.firstStage).tremDepth = x.tremDepth := rfl
@[simp] theorem Voice.firstStage_tremGain (x : Voice) : (x.firstStage).tremGain = x.tremGain := rfl
@[simp] theorem Voice.firstStage_glideActive (x : Voice) : (x.firstStage).glideActive = x.glideActive := rfl
@[simp] theorem Voice.firstStage_glideDelta (x : Voice) : (x.firstStage).glideDelta = x.glideDelta := rfl
@[simp] theorem Voice.firstStage_glideRem (x : Voice) : (x.firstStage).glideRem = x.glideRem := rfl
@[simp] theorem Voice.firstStage_glideRemAcc (x : Voice) : (x.firstStage).glideRemAcc = x.glideRemAcc := rfl
@[simp] theorem Voice.firstStage_glideTarget (x : Voice) : (x.firstStage).glideTarget = x.glideTarget := rfl
@[simp] theorem Voice.firstStage_glideTicks (x : Voice) : (x.firstStage).glideTicks = x.glideTicks := rfl
@[simp] theorem Voice.firstStage_glideLeft (x : Voice) : (x.firstStage).glideLeft = x.glideLeft := rfl
@[simp] theorem Voice.firstStage_arpLen (x : Voice) : (x.firstStage).arpLen = x.arpLen := rfl
@[simp] theorem Voice.firstStage_arpNotes (x : Voice) : (x.firstStage).arpNotes = x.arpNotes := rfl
@[simp] theorem Voice.firstStage_arpIndex (x : Voice) : (x.firstStage).arpIndex = x.arpIndex := rfl
@[simp] theorem Voice.firstStage_arpCounter (x : Voice) : (x.firstStage).arpCounter = x.arpCounter := rfl
@[simp] theorem Voice.firstStage_arpSpeedMs (x : Voice) : (x.firstStage).arpSpeedMs = x.arpSpeedMs := rfl
@[simp] theorem Voice.firstStage_trkAddr (x : Voice) : (x.firstStage).trkAddr = x.trkAddr := rfl
@[simp] theorem Voice.firstStage_smpInstAddr (x : Voice) : (x.firstStage).smpInstAddr = x.smpInstAddr := rfl
@[simp] theorem Voice.firstStage_trkStage (x : Voice) : (x.firstStage).trkStage = 0 := rfl
@[simp] theorem Voice.firstStage_trkTick (x : Voice) : (x.firstStage).trkTick = 0 := rfl
@[simp] theorem Voice.firstStage_trkCur (x : Voice) : (x.firstStage).trkCur = x.trkCur := rfl
@[simp] theorem Voice.firstStage_trkNext (x : Voice) : (x.firstStage).trkNext = x.trkNext := rfl
@[simp] theorem Voice.firstStage_trkMorph (x : Voice) : (x.firstStage).trkMorph = x.trkMorph := rfl
@[simp] theorem Voice.firstStage_trkVol (x : Voice) : (x.firstStage).trkVol = x.trkVol := rfl

end Sys2Proof.Machine
end

