-- ==== Sys2Proof/Laws/Ops.lean ====
section
/-! SUPPORT. What rewriting one voice and answering one accessor do to a state, and the integer ranges of the named
reductions and divisions. -/

namespace Sys2Proof.Machine

/-! ## One voice, one answer -/

theorem State.updateVoice_of_some {s : State} {v : Byte} {x : Voice} (f : Voice → Voice)
    (h : s.voices[v.toNat]? = some x) :
    s.updateVoice v f = { s with voices := s.voices.set v.toNat (f x) } := by
  simp [State.updateVoice, State.voice?, h]

theorem State.updateVoice_of_ge {s : State} {v : Byte} (f : Voice → Voice) (h : s.voices.length ≤ v.toNat) :
    s.updateVoice v f = s := by
  simp [State.updateVoice, State.voice?, List.getElem?_eq_none h]

/-- The rewritten voice file, whether the index is in range or not. -/
theorem State.updateVoice_voices (s : State) (v : Byte) (f : Voice → Voice) :
    (s.updateVoice v f).voices = s.voices.modify v.toNat f := by
  cases h : s.voices[v.toNat]? with
  | none =>
    rw [State.updateVoice_of_ge f (List.getElem?_eq_none_iff.mp h), List.modify_eq_self]
    exact List.getElem?_eq_none_iff.mp h
  | some x =>
    rw [State.updateVoice_of_some f h]
    apply List.ext_getElem?
    intro j
    simp only [List.getElem?_set, List.getElem?_modify]
    split
    · rename_i hj
      obtain ⟨hlt, hx⟩ := List.getElem?_eq_some_iff.mp h
      subst hj
      simp [hlt, hx]
    · simp

@[simp] theorem State.updateVoice_voices_length (s : State) (v : Byte) (f : Voice → Voice) :
    (s.updateVoice v f).voices.length = s.voices.length := by
  rw [State.updateVoice_voices, List.length_modify]

theorem State.updateVoice_other {s : State} {v : Byte} {j : Nat} (f : Voice → Voice) (h : j ≠ v.toNat) :
    (s.updateVoice v f).voices[j]? = s.voices[j]? := by
  simp [State.updateVoice_voices, Ne.symm h]

theorem State.updateVoice_self (s : State) (v : Byte) (f : Voice → Voice) :
    (s.updateVoice v f).voices[v.toNat]? = s.voices[v.toNat]?.map f := by
  simp [State.updateVoice_voices]

/-- Every voice after a rewrite is an old voice or the rewritten one. -/
theorem State.mem_updateVoice {s : State} {v : Byte} {f : Voice → Voice} {y : Voice}
    (h : y ∈ (s.updateVoice v f).voices) : y ∈ s.voices ∨ ∃ x ∈ s.voices, y = f x := by
  cases hx : s.voices[v.toNat]? with
  | none => rw [State.updateVoice_of_ge f (List.getElem?_eq_none_iff.mp hx)] at h; exact .inl h
  | some x =>
    rw [State.updateVoice_of_some f hx] at h
    rcases List.mem_or_eq_of_mem_set h with h | h
    · exact .inl h
    · exact .inr ⟨x, List.mem_of_getElem? hx, h⟩

/-- A rewrite that leaves the voice as it is leaves the state as it is. -/
theorem State.updateVoice_unchanged {s : State} {v : Byte} {x : Voice} {f : Voice → Voice}
    (h : s.voices[v.toNat]? = some x) (hf : f x = x) : s.updateVoice v f = s := by
  obtain ⟨hlt, hx⟩ := List.getElem?_eq_some_iff.mp h
  rw [State.updateVoice_of_some f h, hf, ← hx, List.set_getElem_self]

theorem State.answer_of_some {s : State} {v : Byte} {x : Voice} (g : Voice → Word) (h : s.voices[v.toNat]? = some x) :
    s.answer v g = { s with resp := s.resp ++ [g x] } := by
  simp [State.answer, State.voice?, h, State.respond]

theorem State.answer_of_ge {s : State} {v : Byte} (g : Voice → Word) (h : s.voices.length ≤ v.toNat) :
    s.answer v g = { s with resp := s.resp ++ [0] } := by
  simp [State.answer, State.voice?, List.getElem?_eq_none h, State.respond]

theorem State.answer_resp (s : State) (v : Byte) (g : Voice → Word) :
    ∃ w, (s.answer v g).resp = s.resp ++ [w] := by
  unfold State.answer
  split
  · exact ⟨_, State.respond_resp s 0⟩
  · exact ⟨_, State.respond_resp s _⟩

/-! ## Ranges -/

theorem s16_range (x : Nat) : -32768 ≤ s16 x ∧ s16 x ≤ 32767 := by
  have := BitVec.toInt_lt (x := BitVec.ofNat 16 x)
  have := BitVec.le_toInt (x := BitVec.ofNat 16 x)
  unfold s16
  omega

theorem romWord_range (c : Ctx) (i : Nat) : -2147483648 ≤ romWord c i ∧ romWord c i ≤ 2147483647 := by
  have := BitVec.toInt_lt (x := (c.sineRom.getD (i / 64) []).getD (i % 64) 0)
  have := BitVec.le_toInt (x := (c.sineRom.getD (i / 64) []).getD (i % 64) 0)
  unfold romWord
  omega

/-- A word holds every integer of the signed 32-bit range. -/
theorem u32_toInt {x : Int} (h1 : -2147483648 ≤ x) (h2 : x ≤ 2147483647) : (u32 x).toInt = x := by
  unfold u32
  rw [BitVec.toInt_ofInt]
  exact Int.bmod_eq_of_le (by omega) (by omega)

theorem cdiv_le_iff {a b k : Nat} (hb : 0 < b) : cdiv a b ≤ k ↔ a ≤ b * k := by
  unfold cdiv
  constructor
  · intro h
    have h1 := Nat.lt_mul_div_succ (a + b - 1) hb
    have h2 : b * ((a + b - 1) / b) ≤ b * k := Nat.mul_le_mul_left b h
    rw [Nat.mul_add, Nat.mul_one] at h1
    omega
  · intro h
    have : (a + b - 1) / b < k + 1 := by
      rw [Nat.div_lt_iff_lt_mul hb, Nat.mul_comm, Nat.mul_add]
      omega
    omega

theorem natAbs_tdiv_mul_le (a : Int) (n : Nat) : (tdiv a n * n).natAbs ≤ a.natAbs := by
  unfold tdiv
  rw [Int.natAbs_mul, Int.natAbs_tdiv, Int.natAbs_natCast]
  exact Nat.div_mul_le_self _ _

theorem ticksFromMs_le (rate : Word) (ms : Nat) : ticksFromMs rate ms ≤ 4294967295 := Nat.min_le_left _ _

theorem arpTicks_toNat (c : Ctx) (ms : Word) :
    (arpTicks c ms).toNat = max 1 (ticksFromMs c.ctrlRate ms.toNat) := by
  have := ticksFromMs_le c.ctrlRate ms.toNat
  simp only [arpTicks, BitVec.toNat_ofNat]
  omega

theorem gain_le (x : Voice) : x.gain ≤ 254 := by
  have h1 := x.volume.isLt
  have h2 := x.trkVol.isLt
  have h3 := x.tremGain.isLt
  have hl : x.loudness ≤ 255 := by
    unfold Voice.loudness
    split
    · rw [Nat.shiftRight_eq_div_pow]
      have : x.volume.toNat * x.trkVol.toNat ≤ 255 * 255 := Nat.mul_le_mul (by omega) (by omega)
      omega
    · omega
  have : x.loudness * x.tremGain.toNat ≤ 255 * 255 := Nat.mul_le_mul hl (by omega)
  rw [Voice.gain, Nat.shiftRight_eq_div_pow]
  omega

/-! ## Registries -/

/-- A registered sample with a base and a length is not missing (`20_memory.md` R67). -/
theorem smpEntry?_registered {c : Ctx} {id : Nat} {e : SmpEntry} (h : c.sreg[id]? = some e) (hv : e.valid = true)
    (hb : e.base ≠ 0) (hl : e.length ≠ 0) : smpEntry? c id = some e := by
  rw [smpEntry?, h]
  exact if_neg fun hm => hm.elim (fun h' => nomatch hv.symm.trans h') fun hm => hm.elim hb hl

/-- A registered wavetable with a base and a size is not missing (`20_memory.md` R67). -/
theorem wtEntry?_registered {c : Ctx} {id : Nat} {e : WtEntry} (h : c.wreg[id]? = some e) (hv : e.valid = true)
    (hb : e.base ≠ 0) (hs : e.size ≠ 0) : wtEntry? c id = some e := by
  rw [wtEntry?, h]
  exact if_neg fun hm => hm.elim (fun h' => nomatch hv.symm.trans h') fun hm => hm.elim hb hs

/-- Any other id is missing (`20_memory.md` R67). -/
theorem wtEntry?_missing {c : Ctx} {id : Nat}
    (h : ∀ e, c.wreg[id]? = some e → e.valid = false ∨ e.base = 0 ∨ e.size = 0) : wtEntry? c id = none := by
  unfold wtEntry?
  split
  · rfl
  · rename_i e he
    exact if_pos (h e he)

end Sys2Proof.Machine
end

