-- ==== Sys2Proof/Laws/Render.lean ====
section
/-! SUPPORT. The renderers: what each leaves of a voice, and that each adds to the mix entries it is given. -/

namespace Sys2Proof.Machine

/-! ## The phase-driven loop -/

@[simp] theorem phaseLoop_length (sample : Word → Int) (step : Word) (g : Nat) (r : Ramp) (mix : List Word) (i : Nat)
    (p : Word) : (phaseLoop sample step g r mix i p).1.length = mix.length := by
  induction mix generalizing i p with
  | nil => rfl
  | cons m ms ih => simp [phaseLoop, ih]

theorem phaseLoop_phase (sample : Word → Int) (step : Word) (g : Nat) (r : Ramp) (mix : List Word) (i : Nat)
    (p : Word) : (phaseLoop sample step g r mix i p).2 = p + BitVec.ofNat 32 mix.length * step := by
  induction mix generalizing i p with
  | nil => simp [phaseLoop]
  | cons m ms ih =>
    simp only [phaseLoop, ih, List.length_cons, BitVec.ofNat_add, BitVec.add_mul]
    rw [show BitVec.ofNat 32 1 * step = step by simp]
    ac_rfl

theorem phaseLoop_get (sample : Word → Int) (step : Word) (g : Nat) (r : Ramp) {mix : List Word} {k : Nat} {m : Word}
    (h : mix[k]? = some m) (i : Nat) (p : Word) :
    (phaseLoop sample step g r mix i p).1[k]? =
      some (mixAdd m (sample (p + BitVec.ofNat 32 k * step)) g (r.env (i + k))) := by
  induction mix generalizing i p k with
  | nil => simp at h
  | cons m' ms ih =>
    cases k with
    | zero =>
      obtain rfl : m' = m := by simpa using h
      simp [phaseLoop]
    | succ k =>
      have h' : ms[k]? = some m := by simpa using h
      simp only [phaseLoop, List.getElem?_cons_succ, ih h', BitVec.ofNat_add, BitVec.add_mul]
      rw [show BitVec.ofNat 32 1 * step = step by simp, show i + 1 + k = i + (k + 1) by omega,
        show p + step + BitVec.ofNat 32 k * step = p + (BitVec.ofNat 32 k * step + step) by ac_rfl]

/-! ## The noise loop -/

@[simp] theorem noiseLoop_length (step : Word) (g : Nat) (r : Ramp) (mix : List Word) (i : Nat) (p seed : Word) :
    (noiseLoop step g r mix i p seed).1.length = mix.length := by
  induction mix generalizing i p seed with
  | nil => rfl
  | cons m ms ih => simp [noiseLoop, ih]

/-! ## The sample loop -/

@[simp] theorem sampleLoop_length (c : Ctx) (e : SmpEntry) (x : Voice) (sinc : Nat) (r : Ramp) (mix : List Word)
    (i : Nat) (h : PlayHead) : (sampleLoop c e x sinc r mix i h).1.length = mix.length := by
  induction mix generalizing i h with
  | nil => rfl
  | cons m ms ih =>
    simp only [sampleLoop]
    split
    · rfl
    · simp [ih]

/-- Once the voice has ended the loop changes nothing. -/
theorem sampleLoop_ended (c : Ctx) (e : SmpEntry) (x : Voice) (sinc : Nat) (r : Ramp) (mix : List Word) (i : Nat)
    {h : PlayHead} (he : h.ended = true) : sampleLoop c e x sinc r mix i h = (mix, h) := by
  cases mix <;> simp [sampleLoop, he]

/-- A move in a looping mode never ends the voice; a move in loop mode Off that ends it ends it at the same place
however often it is repeated (R169, R173). -/
theorem sampleStep_again {x : Voice} {length sinc : Nat} {h : PlayHead} (hl : length < 4294967296)
    (hf : h.ended = true → sampleStep x length sinc h = h) (he : (sampleStep x length sinc h).ended = true) :
    sampleStep x length sinc (sampleStep x length sinc h) = sampleStep x length sinc h := by
  cases hh : h.ended with
  | true => rw [hf hh, hf hh]
  | false =>
    obtain ⟨pos, dir, ended⟩ := h
    obtain rfl : ended = false := hh
    have hp : (BitVec.ofNat 64 (length <<< 16)).toNat = length <<< 16 := by
      rw [BitVec.toNat_ofNat, Nat.shiftLeft_eq]
      omega
    cases hm : x.loopMode <;> cases dir <;>
      simp only [sampleStep, hm, headForward, headBackward] at he ⊢ <;> split at he <;> simp_all <;>
      (rw [Nat.mod_eq_of_lt hp]; omega)

/-- The heads of a sample voice over a block: mix entry k gets the fetch at the head after k steps until the voice ends,
and the head after the last step is left (R168, R177). -/
theorem sampleLoop_heads (c : Ctx) {e : SmpEntry} {x : Voice} {sinc : Nat} (r : Ramp) {head : Nat → PlayHead}
    (hs : ∀ k, head (k + 1) = sampleStep x e.length.toNat sinc (head k))
    (h0 : (head 0).ended = true → head 1 = head 0) (mix : List Word) (i : Nat) :
    (sampleLoop c e x sinc r mix i (head i)).2 = head (i + mix.length) ∧
      ∀ (k : Nat) (m : Word), mix[k]? = some m →
        (sampleLoop c e x sinc r mix i (head i)).1[k]? =
          some (if (head (i + k)).ended then m
            else mixAdd m (sampleFetch c e (head (i + k)).pos) x.gain (r.env (i + k))) := by
  have hfix : ∀ k, (head k).ended = true → head (k + 1) = head k := by
    intro k
    induction k with
    | zero => exact h0
    | succ k ih =>
      intro he
      rw [hs k] at he
      rw [hs (k + 1), hs k]
      exact sampleStep_again e.length.isLt (fun h => by rw [← hs k]; exact ih h) he
  have hstay : ∀ k, (head i).ended = true → head (i + k) = head i := by
    intro k he
    induction k with
    | zero => rfl
    | succ k ih => rw [← Nat.add_assoc, hfix _ (by rw [ih]; exact he), ih]
  induction mix generalizing i with
  | nil => exact ⟨rfl, fun k m h => by cases h⟩
  | cons m' ms ih =>
    cases he : (head i).ended with
    | true =>
      rw [sampleLoop_ended _ _ _ _ _ _ _ he]
      exact ⟨(hstay _ he).symm, fun k m h => by rw [hstay k he, he]; exact h⟩
    | false =>
      have ih := ih (i + 1) fun k h => by
        induction k with
        | zero => rfl
        | succ k ihk => rw [← Nat.add_assoc, hfix _ (by rw [ihk]; exact h), ihk]
      rw [hs i] at ih
      rw [sampleLoop, if_neg (by simp [he])]
      dsimp only
      refine ⟨by rw [ih.1, List.length_cons]; congr 1; omega, fun k m h => ?_⟩
      cases k with
      | zero =>
        obtain rfl : m' = m := by simpa using h
        simp [he]
      | succ k =>
        rw [show i + (k + 1) = i + 1 + k by omega]
        exact ih.2 k m (by simpa using h)

/-! ## What a renderer leaves of a voice -/

@[simp] theorem renderPhase_length (sample : Word → Int) (r : Ramp) (x : Voice) (mix : List Word) :
    (renderPhase sample r x mix).1.length = mix.length := by simp [renderPhase]

theorem renderPhase_voice (sample : Word → Int) (r : Ramp) (x : Voice) (mix : List Word) :
    (renderPhase sample r x mix).2 = { x with phase := x.phase + BitVec.ofNat 32 mix.length * x.effInc } := by
  simp [renderPhase, phaseLoop_phase]

theorem withHead_eq (x : Voice) (h : PlayHead) :
    x.withHead h =
      if h.ended then
        { x with smpPos := h.pos, smpDir := h.dir, smpFinished := true, active := false, envState := .idle,
                 envValue := 0 }
      else { x with smpPos := h.pos, smpDir := h.dir } := by
  unfold Voice.withHead
  split <;> rfl

theorem renderSample_length (c : Ctx) (r : Ramp) (x : Voice) (mix : List Word) :
    (renderSample c r x mix).1.length = mix.length := by
  unfold renderSample
  split
  · rfl
  · split <;> simp

@[simp] theorem renderVoice_length (c : Ctx) (r : Ramp) (x : Voice) (mix : List Word) :
    (renderVoice c r x mix).1.length = mix.length := by
  unfold renderVoice renderTracker renderBasic renderWavetable renderNoise
  split
  · simp
  · split <;> simp [renderSample_length]

/-- The fields a renderer may write: the oscillator's position, and the ending of a sample voice (R271). -/
theorem renderVoice_frame (c : Ctx) (r : Ramp) (x : Voice) (mix : List Word) :
    ∃ phase seed pos dir,
      (renderVoice c r x mix).2 =
          { x with phase := phase, noiseSeed := seed, smpPos := pos, smpDir := dir } ∨
        (renderVoice c r x mix).2 =
          { x with phase := phase, noiseSeed := seed, smpPos := pos, smpDir := dir, smpFinished := true,
                   active := false, envState := .idle, envValue := 0 } := by
  unfold renderVoice renderTracker renderBasic renderWavetable renderNoise
  split
  · exact ⟨_, x.noiseSeed, x.smpPos, x.smpDir, .inl (renderPhase_voice ..)⟩
  · split
    · exact ⟨_, x.noiseSeed, x.smpPos, x.smpDir, .inl (renderPhase_voice ..)⟩
    · exact ⟨_, x.noiseSeed, x.smpPos, x.smpDir, .inl (renderPhase_voice ..)⟩
    · unfold renderSample
      split
      · exact ⟨x.phase, x.noiseSeed, x.smpPos, x.smpDir, .inl rfl⟩
      · split
        · exact ⟨x.phase, x.noiseSeed, x.smpPos, x.smpDir, .inl rfl⟩
        · simp only [withHead_eq]
          split
          · exact ⟨x.phase, x.noiseSeed, _, _, .inr rfl⟩
          · exact ⟨x.phase, x.noiseSeed, _, _, .inl rfl⟩
    · exact ⟨_, _, x.smpPos, x.smpDir, .inl rfl⟩

/-! ## The voice loop -/

theorem renderSlot_inactive (c : Ctx) {x : Voice} (h : x.active = false) (mix : List Word) :
    renderSlot c x mix = (mix, x) := by
  simp [renderSlot, h]

@[simp] theorem renderSlot_length (c : Ctx) (x : Voice) (mix : List Word) :
    (renderSlot c x mix).1.length = mix.length := by
  unfold renderSlot
  split
  · dsimp only
    split <;> simp
  · rfl

@[simp] theorem renderSlots_mix_length (c : Ctx) (xs : List Voice) (mix : List Word) :
    (renderSlots c xs mix).1.length = mix.length := by
  induction xs generalizing mix with
  | nil => rfl
  | cons x xs ih => simp [renderSlots, ih]

/-- What a slot becomes does not depend on what the mix entries hold, only on how many there are. -/
theorem renderSlot_voice_congr (c : Ctx) (x : Voice) {mix mix' : List Word} (h : mix.length = mix'.length) :
    (renderSlot c x mix).2 = (renderSlot c x mix').2 := by
  have hnoise (step : Word) (g : Nat) (r : Ramp) : ∀ (l l' : List Word) (i : Nat) (p seed : Word),
      l.length = l'.length → (noiseLoop step g r l i p seed).2 = (noiseLoop step g r l' i p seed).2 := by
    intro l
    induction l with
    | nil => intro l' i p seed hl; cases l' <;> simp_all [noiseLoop]
    | cons m ms ih =>
      intro l' i p seed hl
      cases l' with
      | nil => simp at hl
      | cons m' ms' => exact ih ms' _ _ _ (by simpa using hl)
  have hsample (e : SmpEntry) (y : Voice) (sinc : Nat) (r : Ramp) : ∀ (l l' : List Word) (i : Nat) (hd : PlayHead),
      l.length = l'.length → (sampleLoop c e y sinc r l i hd).2 = (sampleLoop c e y sinc r l' i hd).2 := by
    intro l
    induction l with
    | nil => intro l' i hd hl; cases l' <;> simp_all [sampleLoop]
    | cons m ms ih =>
      intro l' i hd hl
      cases l' with
      | nil => simp at hl
      | cons m' ms' =>
        simp only [sampleLoop]
        split
        · rfl
        · exact ih ms' _ _ (by simpa using hl)
  have hrender (r : Ramp) (y : Voice) : (renderVoice c r y mix).2 = (renderVoice c r y mix').2 := by
    unfold renderVoice renderTracker renderBasic renderWavetable renderNoise
    split
    · simp [renderPhase_voice, h]
    · split
      · simp [renderPhase_voice, h]
      · simp [renderPhase_voice, h]
      · unfold renderSample
        split
        · rfl
        · split
          · rfl
          · simp only [hsample _ _ _ _ mix mix' _ _ h]
      · simp only [hnoise _ _ _ mix mix' _ _ _ h]
  unfold renderSlot
  rw [h]
  split
  · dsimp only
    split
    · rfl
    · exact hrender _ _
  · rfl

/-- The voices after the loop, each rendered on its own over as many mix entries (R269). -/
theorem renderSlots_voices (c : Ctx) (xs : List Voice) (mix : List Word) :
    (renderSlots c xs mix).2 = xs.map fun x => (renderSlot c x (List.replicate mix.length 0)).2 := by
  induction xs generalizing mix with
  | nil => rfl
  | cons x xs ih =>
    simp only [renderSlots, ih, renderSlot_length, List.map_cons]
    rw [renderSlot_voice_congr c x (mix' := List.replicate mix.length 0) (by simp)]

/-- The mix goes through the slots in ascending order (R269). -/
theorem renderSlots_mix (c : Ctx) (xs : List Voice) (mix : List Word) :
    (renderSlots c xs mix).1 = xs.foldl (fun m x => (renderSlot c x m).1) mix := by
  induction xs generalizing mix with
  | nil => rfl
  | cons x xs ih => rw [renderSlots, ih, List.foldl_cons]

end Sys2Proof.Machine
end

