-- ==== Sys2Proof/Laws/Frames.lean ====
section
/-! SUPPORT. The fields each procedure on one voice may write; each lemma says all a procedure can do to the record, so
that callers cite it and do not unfold the procedure. -/

namespace Sys2Proof.Machine

/-! ## Envelope -/

theorem attackBlock_frame (n : Nat) (x : Voice) :
    ∃ st val, (attackBlock n x).2 = { x with envState := st, envValue := val } := by
  unfold attackBlock
  dsimp only
  split
  · exact ⟨x.envState, _, rfl⟩
  · exact ⟨_, _, rfl⟩

theorem releaseBlock_frame (n : Nat) (x : Voice) :
    ∃ act st val, (releaseBlock n x).2 = { x with active := act, envState := st, envValue := val } := by
  unfold releaseBlock
  dsimp only
  split
  · exact ⟨_, _, _, rfl⟩
  · exact ⟨x.active, x.envState, _, rfl⟩

/-- `EnvBlock` writes the envelope state, the envelope value and, at the end of a release, `active` (R110). -/
theorem envBlock_frame (n : Nat) (x : Voice) :
    ∃ act st val, (envBlock n x).2 = { x with active := act, envState := st, envValue := val } := by
  unfold envBlock
  split
  · exact ⟨x.active, x.envState, _, rfl⟩
  · split
    · exact ⟨x.active, x.envState, _, rfl⟩
    · split
      · exact ⟨x.active, _, _, rfl⟩
      · obtain ⟨st, val, h⟩ := attackBlock_frame n x
        exact ⟨x.active, st, val, h⟩
    · split
      · exact ⟨x.active, _, _, rfl⟩
      · exact ⟨x.active, _, _, rfl⟩
    · exact ⟨x.active, x.envState, x.envValue, rfl⟩
    · split
      · exact ⟨_, _, _, rfl⟩
      · exact releaseBlock_frame n x

/-! ## Tracker -/

/-- `TrkNormalise`, whole: at most one of its three cases applies, since the first two lead to Sustain (R242). -/
theorem trkNormalise_eq (c : Ctx) (x : Voice) :
    trkNormalise c x =
      if x.envState = .attack ∧ attackLen c x.trkAddr.toNat ≤ x.trkStage.toNat ∨ x.envState = .decay then
        { x with envState := .sustain, trkStage := 0, trkTick := 0 }
      else if x.envState = .release ∧ releaseLen c x.trkAddr.toNat ≤ x.trkStage.toNat then
        { x with envState := .idle, active := false, envValue := 0, trkStage := 0, trkTick := 0 }
      else x := by
  unfold trkNormalise
  rcases hst : x.envState <;>
    by_cases ha : attackLen c x.trkAddr.toNat ≤ x.trkStage.toNat <;>
    by_cases hr : releaseLen c x.trkAddr.toNat ≤ x.trkStage.toNat <;>
    simp [hst, ha, hr, Voice.firstStage, Voice.enterIdle]

/-- `TrkLoad` on a bound voice: the normalised voice with at most the four stage fields rewritten (R243). -/
theorem trkLoad_frame (c : Ctx) (x : Voice) :
    ∃ cur nxt morph vol,
      trkLoad c x =
        if x.trkAddr = 0 then x
        else { trkNormalise c x with trkCur := cur, trkNext := nxt, trkMorph := morph, trkVol := vol } := by
  unfold trkLoad
  split
  · exact ⟨0, 0, 0, 0, rfl⟩
  · dsimp only
    split
    · exact ⟨_, _, _, _, rfl⟩
    · exact ⟨_, _, _, _, rfl⟩

/-- The fields `TrkLoad` may write, normalisation included. -/
theorem trkLoad_fields (c : Ctx) (x : Voice) :
    ∃ act st val stage tick cur nxt morph vol,
      trkLoad c x =
        { x with active := act, envState := st, envValue := val, trkStage := stage, trkTick := tick, trkCur := cur,
                 trkNext := nxt, trkMorph := morph, trkVol := vol } := by
  obtain ⟨cur, nxt, morph, vol, h⟩ := trkLoad_frame c x
  rw [h, trkNormalise_eq]
  split
  · exact ⟨_, _, _, _, _, _, _, _, _, rfl⟩
  · split
    · exact ⟨_, _, _, _, _, _, _, _, _, rfl⟩
    · split <;> exact ⟨_, _, _, _, _, _, _, _, _, rfl⟩

theorem trackerTick_fields (c : Ctx) (x : Voice) :
    ∃ act st val stage tick cur nxt morph vol,
      trackerTick c x =
        { x with active := act, envState := st, envValue := val, trkStage := stage, trkTick := tick, trkCur := cur,
                 trkNext := nxt, trkMorph := morph, trkVol := vol } := by
  unfold trackerTick
  split
  · exact ⟨_, _, _, _, _, _, _, _, _, rfl⟩
  · have hadv : ∃ stage tick, trkAdvance c x = { x with trkStage := stage, trkTick := tick } := by
      unfold trkAdvance
      split
      · split <;> exact ⟨_, _, rfl⟩
      · exact ⟨_, _, rfl⟩
    obtain ⟨stage, tick, hadv⟩ := hadv
    obtain ⟨act, st, val, stage', tick', cur, nxt, morph, vol, h⟩ := trkLoad_fields c (trkAdvance c x)
    rw [h, hadv]
    exact ⟨_, _, _, _, _, _, _, _, _, rfl⟩

/-! ## Arpeggio and glide -/

theorem arpTick_fields (c : Ctx) (x : Voice) :
    ∃ index freq pinc counter,
      arpTick c x = { x with arpIndex := index, freq := freq, phaseInc := pinc, arpCounter := counter } := by
  unfold arpTick
  split
  · exact ⟨_, _, _, _, rfl⟩
  · dsimp only
    split <;> exact ⟨_, _, _, _, rfl⟩

theorem glideTick_fields (c : Ctx) (x : Voice) :
    ∃ freq pinc acc left act,
      glideTick c x =
        { x with freq := freq, phaseInc := pinc, glideRemAcc := acc, glideLeft := left, glideActive := act } := by
  unfold glideTick
  split <;> exact ⟨_, _, _, _, _, rfl⟩

theorem glideSetup_fields (c : Ctx) (startInc startFreq endFreq ms : Word) (x : Voice) :
    ∃ pinc freq delta rem acc target ticks left act,
      glideSetup c startInc startFreq endFreq ms x =
        { x with phaseInc := pinc, freq := freq, glideDelta := delta, glideRem := rem, glideRemAcc := acc,
                 glideTarget := target, glideTicks := ticks, glideLeft := left, glideActive := act } := by
  unfold glideSetup
  dsimp only
  split <;> exact ⟨_, _, _, _, _, _, _, _, _, rfl⟩

/-! ## Notes -/

theorem zoneLookup_fields (c : Ctx) (f : Word) (x : Voice) :
    ∃ id root mode lo hi,
      zoneLookup c f x =
        { x with kind := .sample, smpId := id, rootOverride := root, loopMode := mode, loopStart := lo,
                 loopEnd := hi } := ⟨_, _, _, _, _, rfl⟩

theorem sampleStart_fields (c : Ctx) (x : Voice) :
    ∃ lo hi dir pos,
      sampleStart c x = { x with loopStart := lo, loopEnd := hi, smpDir := dir, smpPos := pos } := by
  have hclamp : ∃ hi, clampLoopEnd c x = { x with loopEnd := hi } := by
    unfold clampLoopEnd
    split
    · exact ⟨_, rfl⟩
    · split <;> exact ⟨_, rfl⟩
  obtain ⟨hi, hclamp⟩ := hclamp
  unfold sampleStart startHead resetLoopStart
  rw [hclamp]
  dsimp only
  split <;> split <;> exact ⟨_, _, _, _, rfl⟩

/-- NOTE_ON on its voice as four stages (R291): the note's own fields, then each of the three conditional parts with the
fields it may write. -/
theorem noteOnVoice_stages (ctx : Ctx) (volume : Byte) (freq : Word) (x : Voice) :
    ∃ a b c : Voice,
      a = { x.claim with freq := freq, phaseInc := inc ctx.fs freq, volume := volume } ∧
      b = (if a.smpInstAddr ≠ 0 then zoneLookup ctx freq a else a) ∧
      (∃ k id root mode lo hi, b = { a with kind := k, smpId := id, rootOverride := root, loopMode := mode,
                                            loopStart := lo, loopEnd := hi }) ∧
      c = (if b.kind = .sample then sampleStart ctx b else b) ∧
      (∃ lo hi dir pos, c = { b with loopStart := lo, loopEnd := hi, smpDir := dir, smpPos := pos }) ∧
      noteOnVoice ctx volume freq x = if c.trkAddr ≠ 0 then trkLoad ctx c.firstStage else c := by
  have hzone (a : Voice) : ∃ k id root mode lo hi, (if a.smpInstAddr ≠ 0 then zoneLookup ctx freq a else a) =
      { a with kind := k, smpId := id, rootOverride := root, loopMode := mode, loopStart := lo, loopEnd := hi } := by
    split
    · exact ⟨_, zoneLookup_fields ctx freq a⟩
    · exact ⟨_, _, _, _, _, _, rfl⟩
  have hstart (b : Voice) : ∃ lo hi dir pos, (if b.kind = .sample then sampleStart ctx b else b) =
      { b with loopStart := lo, loopEnd := hi, smpDir := dir, smpPos := pos } := by
    split
    · exact sampleStart_fields ctx b
    · exact ⟨_, _, _, _, rfl⟩
  exact ⟨_, _, _, rfl, rfl, hzone _, rfl, hstart _, rfl⟩

/-! ## One control tick of one voice -/

theorem tickVoice_inactive (c : Ctx) {x : Voice} (h : x.active = false) : tickVoice c x = x := by
  simp [tickVoice, h]

/-- The fields a control tick may write (R203). -/
theorem tickVoice_fields (c : Ctx) (x : Voice) :
    ∃ act st val freq pinc vp vo tp tg ga acc left index counter stage tick cur nxt morph vol,
      tickVoice c x =
        { x with
          active := act, envState := st, envValue := val, freq := freq, phaseInc := pinc, vibPhase := vp,
          vibOffset := vo, tremPhase := tp, tremGain := tg, glideActive := ga, glideRemAcc := acc, glideLeft := left,
          arpIndex := index, arpCounter := counter, trkStage := stage, trkTick := tick, trkCur := cur,
          trkNext := nxt, trkMorph := morph, trkVol := vol } := by
  unfold tickVoice
  split
  · obtain ⟨_, _, _, _, _, _, _, _, _, h1⟩ :=
      trackerTick_fields c (glideTick c (arpTick c (tremoloTick c (vibratoTick c x))))
    obtain ⟨_, _, _, _, _, h2⟩ := glideTick_fields c (arpTick c (tremoloTick c (vibratoTick c x)))
    obtain ⟨_, _, _, _, h3⟩ := arpTick_fields c (tremoloTick c (vibratoTick c x))
    rw [h1, h2, h3]
    exact ⟨_, _, _, _, _, _, _, _, _, _, _, _, _, _, _, _, _, _, _, _, rfl⟩
  · exact ⟨_, _, _, _, _, _, _, _, _, _, _, _, _, _, _, _, _, _, _, _, rfl⟩

theorem tickVoice_iterate_inactive (c : Ctx) {x : Voice} (h : x.active = false) (k : Nat) :
    (tickVoice c)^[k] x = x := Function.iterate_fixed (tickVoice_inactive c h) k

/-! ## One slot of the voice loop -/

/-- The fields rendering may write: envelope, oscillator position, and the ending of the voice (R265, R271). -/
theorem renderSlot_fields (c : Ctx) (x : Voice) (mix : List Word) :
    ∃ act st val phase seed pos dir fin,
      (renderSlot c x mix).2 =
        { x with active := act, envState := st, envValue := val, phase := phase, noiseSeed := seed, smpPos := pos,
                 smpDir := dir, smpFinished := fin } := by
  unfold renderSlot
  split
  · dsimp only
    obtain ⟨_, _, _, he⟩ := envBlock_frame mix.length x
    split
    · rw [he]
      exact ⟨_, _, _, _, _, _, _, _, rfl⟩
    · obtain ⟨_, _, _, _, h | h⟩ := renderVoice_frame c (envBlock mix.length x).1 (envBlock mix.length x).2 mix <;>
        rw [h, he] <;> exact ⟨_, _, _, _, _, _, _, _, rfl⟩
  · exact ⟨_, _, _, _, _, _, _, _, rfl⟩

/-! ## The scheduler -/

@[simp] theorem tick_length (c : Ctx) (voices : List Voice) : (tick c voices).length = voices.length := by
  simp [tick]

/-- The scheduler loop in closed form: how many ticks ran and what is left in the counter (R200). -/
theorem tickLoop_eq (c : Ctx) {interval : Nat} (hi : 1 ≤ interval) :
    ∀ (fuel counter : Nat) (voices : List Voice), counter ≤ fuel →
      tickLoop c interval fuel counter voices = ((tick c)^[counter / interval] voices, counter % interval) := by
  intro fuel
  induction fuel with
  | zero =>
    intro counter voices h
    obtain rfl : counter = 0 := by omega
    simp [tickLoop]
  | succ fuel ih =>
    intro counter voices h
    rw [tickLoop]
    split
    · rename_i hle
      rw [ih _ _ (by omega), Nat.mod_eq_sub_mod hle, Nat.div_eq_sub_div (by omega) hle, Function.iterate_succ_apply]
    · rw [Nat.div_eq_of_lt (by omega), Nat.mod_eq_of_lt (by omega)]
      rfl

/-- What holds of every voice and is kept by a tick of one voice holds of every voice after the scheduler. -/
theorem tickLoop_forall (c : Ctx) (interval : Nat) {P : Voice → Prop} (hP : ∀ x, P x → P (tickVoice c x)) :
    ∀ (fuel counter : Nat) (voices : List Voice), (∀ x ∈ voices, P x) →
      ∀ x ∈ (tickLoop c interval fuel counter voices).1, P x := by
  intro fuel
  induction fuel with
  | zero => intro counter voices h; exact h
  | succ fuel ih =>
    intro counter voices h
    rw [tickLoop]
    split
    · apply ih
      intro x hx
      obtain ⟨y, hy, rfl⟩ := List.mem_map.mp hx
      exact hP y (h y hy)
    · exact h

/-- The scheduler on one slot: it applies the tick of one voice some number of times, the same for every slot and
whatever the slots hold. -/
theorem tickLoop_slot (c : Ctx) (interval fuel counter : Nat) :
    ∃ k rest, ∀ voices : List Voice,
      tickLoop c interval fuel counter voices = (voices.map (tickVoice c)^[k], rest) := by
  induction fuel generalizing counter with
  | zero => exact ⟨0, counter, fun voices => by simp [tickLoop]⟩
  | succ fuel ih =>
    simp only [tickLoop]
    split
    · obtain ⟨k, rest, h⟩ := ih (counter - interval)
      refine ⟨k + 1, rest, fun voices => ?_⟩
      rw [h, tick, List.map_map]
      rfl
    · exact ⟨0, counter, fun voices => by simp⟩

@[simp] theorem runScheduler_voices_length (n : Nat) (s : State) :
    (runScheduler n s).voices.length = s.voices.length := by
  obtain ⟨k, rest, h⟩ := tickLoop_slot s.ctx s.ctrlInterval.toNat (s.ctrlCounter.toNat + n) (s.ctrlCounter.toNat + n)
  simp [runScheduler, h]

end Sys2Proof.Machine
end

