-- ==== Sys2Proof/Laws/Envelope.lean ====
section
/-! SUPPORT. The decay move in closed form, and the straight line of an envelope block between its two ends. -/

namespace Sys2Proof.Machine

/-- `DecayMove` at a finite rate in closed form (R116). -/
theorem decayMove_eq {x : Voice} (hr : x.rateDecay.toNat < rateInf) (y : Int) (m : Nat) :
    ∃ v : Int, decayMove x y m = (v, decide (v = x.sustain.toNat)) ∧
      v = if (x.sustain.toNat : Int) ≤ y then max (x.sustain.toNat : Int) (y - x.rateDecay.toNat * m)
          else min (x.sustain.toNat : Int) (y + x.rateDecay.toNat * m) := by
  refine ⟨_, ?_, rfl⟩
  unfold decayMove
  dsimp only [rateInf] at hr ⊢
  have ht : 0 ≤ (x.rateDecay.toNat : Int) * m := by positivity
  generalize htt : (x.rateDecay.toNat : Int) * m = tot at *
  have h0 : m = 0 → tot = 0 := by rintro rfl; simpa using htt.symm
  split_ifs <;>
    simp only [Prod.mk.injEq, Bool.true_eq, Bool.false_eq, decide_eq_true_eq, decide_eq_false_iff_not] <;> omega

theorem decayMove_range {x : Voice} {y : Int} (m : Nat) (hy : 0 ≤ y ∧ y ≤ envMax) (hs : x.sustain.toNat ≤ envMax) :
    0 ≤ (decayMove x y m).1 ∧ (decayMove x y m).1 ≤ envMax := by
  unfold decayMove
  dsimp only [rateInf]
  have ht : 0 ≤ (x.rateDecay.toNat : Int) * m := by positivity
  generalize (x.rateDecay.toNat : Int) * m = tot at *
  split_ifs <;> dsimp only <;> omega

/-- i of n truncated shares of a difference stay between 0 and the difference. -/
theorem tdiv_mul_bounds (d : Int) {n i : Nat} (hi : i ≤ n) :
    (0 ≤ d → 0 ≤ tdiv d n * i ∧ tdiv d n * i ≤ d) ∧ (d ≤ 0 → d ≤ tdiv d n * i ∧ tdiv d n * i ≤ 0) := by
  have key : ∀ d : Int, 0 ≤ d → 0 ≤ tdiv d n * i ∧ tdiv d n * i ≤ d := by
    intro d hd
    have h0 : 0 ≤ tdiv d n := Int.tdiv_nonneg hd (by positivity)
    have h1 := natAbs_tdiv_mul_le d n
    have h2 : tdiv d n * i ≤ tdiv d n * n := Int.mul_le_mul_of_nonneg_left (by omega) h0
    have h3 : 0 ≤ tdiv d n * i := by positivity
    omega
  refine ⟨key d, fun hd => ?_⟩
  have := key (-d) (by omega)
  unfold tdiv at *
  rw [Int.neg_tdiv, Int.neg_mul] at this
  omega

/-- A ramp between two envelope values stays in the envelope range (R122). -/
theorem rampTo_range {a b : Int} {n i : Nat} (hi : i < n) (ha : 0 ≤ a ∧ a ≤ envMax) (hb : 0 ≤ b ∧ b ≤ envMax) :
    0 ≤ (rampTo a b n).env i ∧ (rampTo a b n).env i ≤ envMax := by
  unfold rampTo Ramp.env
  dsimp only
  have := tdiv_mul_bounds (b - a) hi.le
  rw [Int.mul_comm]
  rcases le_total 0 (b - a) with h | h
  · have := this.1 h
    omega
  · have := this.2 h
    omega

/-- 29 bits hold every envelope value. -/
theorem envValue_toNat {y : Int} (h : 0 ≤ y ∧ y ≤ envMax) : ((BitVec.ofInt 29 y).toNat : Int) = y := by
  dsimp only [envMax] at h
  rw [BitVec.toNat_ofInt, Int.toNat_of_nonneg] <;> norm_num <;> omega

/-- A finite Attack is a straight line from the envelope value to the one stored. -/
theorem attackBlock_line (n : Nat) {x : Voice} (he : x.envValue.toNat ≤ envMax) (hs : x.sustain.toNat ≤ envMax) :
    ∃ stop : Int, 0 ≤ stop ∧ stop ≤ envMax ∧ (attackBlock n x).1 = rampTo x.envValue.toNat stop n ∧
      ((attackBlock n x).2.envValue.toNat : Int) = stop := by
  unfold attackBlock
  dsimp only
  split
  · rename_i h
    have hb : 0 ≤ (x.envValue.toNat : Int) + ((x.rateAttack.toNat * n : Nat) : Int) ∧
        (x.envValue.toNat : Int) + ((x.rateAttack.toNat * n : Nat) : Int) ≤ envMax := by
      generalize x.rateAttack.toNat * n = z at *
      omega
    exact ⟨_, hb.1, hb.2, rfl, envValue_toNat hb⟩
  · have hb := decayMove_range (x := x) (y := envMax)
      (n - if envMax - x.envValue.toNat = 0 then 0 else cdiv (envMax - x.envValue.toNat) x.rateAttack.toNat)
      (by omega) hs
    exact ⟨_, hb.1, hb.2, rfl, envValue_toNat hb⟩

/-- A finite Decay is a straight line from the envelope value to the one stored. -/
theorem decayBlock_line (n : Nat) {x : Voice} (he : x.envValue.toNat ≤ envMax) (hs : x.sustain.toNat ≤ envMax) :
    ∃ stop : Int, 0 ≤ stop ∧ stop ≤ envMax ∧ (decayBlock n x).1 = rampTo x.envValue.toNat stop n ∧
      ((decayBlock n x).2.envValue.toNat : Int) = stop := by
  unfold decayBlock
  dsimp only
  have hb := decayMove_range (x := x) (y := x.envValue.toNat) n (by omega) hs
  exact ⟨_, hb.1, hb.2, rfl, envValue_toNat hb⟩

/-- A finite Release is a straight line from the envelope value to the one stored. -/
theorem releaseBlock_line (n : Nat) {x : Voice} (he : x.envValue.toNat ≤ envMax) :
    ∃ stop : Int, 0 ≤ stop ∧ stop ≤ envMax ∧ (releaseBlock n x).1 = rampTo x.envValue.toNat stop n ∧
      ((releaseBlock n x).2.envValue.toNat : Int) = stop := by
  unfold releaseBlock
  dsimp only
  generalize x.rateRelease.toNat * n = z
  split
  · exact ⟨0, by omega, by omega, rfl, rfl⟩
  · have hb : 0 ≤ (x.envValue.toNat : Int) - (z : Int) ∧ (x.envValue.toNat : Int) - (z : Int) ≤ envMax := by omega
    exact ⟨_, hb.1, hb.2, rfl, envValue_toNat hb⟩

theorem envBlock_attack (n : Nat) {x : Voice} (h : x.trkAddr = 0) (hs : x.envState = .attack)
    (hr : x.rateAttack.toNat < rateInf) : envBlock n x = attackBlock n x := by
  unfold envBlock
  rw [if_neg (by simpa using h)]
  split <;> rename_i e <;> rw [hs] at e <;> cases e
  exact if_neg (by simpa using hr)

theorem envBlock_decay (n : Nat) {x : Voice} (h : x.trkAddr = 0) (hs : x.envState = .decay)
    (hr : x.rateDecay.toNat < rateInf) : envBlock n x = decayBlock n x := by
  unfold envBlock
  rw [if_neg (by simpa using h)]
  split <;> rename_i e <;> rw [hs] at e <;> cases e
  exact if_neg (by simpa using hr)

theorem envBlock_release (n : Nat) {x : Voice} (h : x.trkAddr = 0) (hs : x.envState = .release)
    (hr : x.rateRelease.toNat < rateInf) : envBlock n x = releaseBlock n x := by
  unfold envBlock
  rw [if_neg (by simpa using h)]
  split <;> rename_i e <;> rw [hs] at e <;> cases e
  exact if_neg (by simpa using hr)

end Sys2Proof.Machine
end

