-- ==== Sys2Proof/Laws/Exec.lean ====
section
/-! SUPPORT. What the execution of a command can be: a rewrite of one voice, an answer, a registration, a setting, or a
block of audio. -/

namespace Sys2Proof.Machine

/-- What a voice command does to its voice; the identity for the commands that rewrite no voice. -/
def voiceEffect (i : Instr) (s : State) : Voice → Voice :=
  match i with
  | .noteOn _ volume freq => noteOnVoice s.ctx volume freq
  | .noteOff _ => noteOffVoice s.ctx
  | .setFreq _ freq => fun x => { x with freq := freq, phaseInc := inc s.fs freq, glideActive := false }
  | .setVol _ volume => fun x => { x with volume := volume }
  | .setWave _ code => selectWave code
  | .setPw _ threshold => fun x => { x with pulseWidth := threshold }
  | .setEnv _ attack decay sustain release => fun x =>
    { x with rateAttack := attack, rateDecay := decay, sustain := sustainOperand sustain, rateRelease := release }
  | .setVib _ rate depth => fun x => { x with vibRate := rate, vibDepth := depth }
  | .setTrem _ depth rate => fun x => { x with tremDepth := depth, tremRate := rate }
  | .setWt _ id => fun x => { x with kind := .wavetable, wtId := id }
  | .bindTrk _ addr => bindTrkVoice s.ctx addr
  | .bindSmp _ addr => fun x => { x with smpInstAddr := addr, trkAddr := 0 }
  | .unbind _ => fun x => { x with trkAddr := 0, smpInstAddr := 0 }
  | .setSmp _ id mode loopStart loopEnd => fun x =>
    { x with kind := .sample, smpId := id, loopMode := mode, loopStart := loopStart, loopEnd := loopEnd,
             rootOverride := 0 }
  | .setArp _ ms notes => arpAttach s.ctx ms notes
  | .detArp _ => fun x => { x with arpLen := 0 }
  | .glide _ startFreq endFreq ms => glideSetup s.ctx (inc s.fs startFreq) startFreq endFreq ms
  | .glideTo _ endFreq ms => fun x => glideSetup s.ctx x.phaseInc x.freq endFreq ms x
  | .nop => id
  | .regWt _ _ _ _ => id
  | .setRate _ => id
  | .setMvol _ => id
  | .getFreq _ => id
  | .getVol _ => id
  | .getEnv _ => id
  | .getEnv8 _ => id
  | .getLvl _ => id
  | .getLvl8 _ => id
  | .regSmp _ _ _ _ _ => id
  | .render _ _ _ => id

/-- A command with a voice operand that is no accessor rewrites that voice and nothing else. -/
theorem exec_voice {i : Instr} {v : Byte} (s : State) (hv : i.voiceOperand = some v) (hg : i.isGet = false) :
    exec i s = .next (s.updateVoice v (voiceEffect i s)) := by
  cases i <;> simp only [Instr.voiceOperand, Instr.isGet, Option.some.injEq, reduceCtorEq, Bool.true_eq_false] at hv hg <;>
    subst hv <;> rfl

/-- An accessor answers one word and changes nothing else. -/
theorem exec_get {i : Instr} {v : Byte} (s : State) (hv : i.voiceOperand = some v) (hg : i.isGet = true) :
    ∃ g, exec i s = .next (s.answer v g) := by
  cases i <;> simp only [Instr.voiceOperand, Instr.isGet, Option.some.injEq, reduceCtorEq, Bool.false_eq_true] at hv hg <;>
    subst hv <;> exact ⟨_, rfl⟩

theorem isGet_voiceOperand {i : Instr} (hg : i.isGet = true) : ∃ v, i.voiceOperand = some v := by
  cases i <;> simp_all [Instr.isGet, Instr.voiceOperand]

theorem outWidthOfCode_some {code : BitVec 2} (h : code ≠ 3) : ∃ w, outWidthOfCode code = some w := by
  unfold outWidthOfCode
  split
  · exact ⟨_, rfl⟩
  · split
    · exact ⟨_, rfl⟩
    · rw [if_pos (by bv_omega)]
      exact ⟨_, rfl⟩

/-- The state an accepted RENDER leaves. -/
def rendered (n : Nat) (w : OutWidth) (crush : Bool) (s : State) : State :=
  emitBlock n w crush (renderBlock n (runScheduler n s))

theorem exec_render_accepted {s : State} {n : Half} {width : BitVec 2} {w : OutWidth} (crush : Bool)
    (h1 : 1 ≤ n.toNat) (h2 : n.toNat ≤ s.mix.length) (hw : outWidthOfCode width = some w) :
    exec (.render n width crush) s = .next (rendered n.toNat w crush s) := by
  simp [exec, execRender, renderArgs, h1, h2, hw, rendered]

theorem exec_render_rejected {s : State} {n : Half} {width : BitVec 2} (crush : Bool)
    (h : n.toNat = 0 ∨ s.mix.length < n.toNat ∨ outWidthOfCode width = none) :
    exec (.render n width crush) s = .next s := by
  have : renderArgs s n.toNat width = none := by
    unfold renderArgs
    split
    · rcases h with h | h | h
      · omega
      · omega
      · exact h
    · rfl
  simp [exec, execRender, this]

/-- A RENDER is either ignored or renders. -/
theorem exec_render_cases (s : State) (n : Half) (width : BitVec 2) (crush : Bool) :
    exec (.render n width crush) s = .next s ∨
      ∃ w, 1 ≤ n.toNat ∧ n.toNat ≤ s.mix.length ∧ outWidthOfCode width = some w ∧
        exec (.render n width crush) s = .next (rendered n.toNat w crush s) := by
  cases hw : outWidthOfCode width with
  | none => exact .inl (exec_render_rejected crush (.inr (.inr hw)))
  | some w =>
    by_cases h : 1 ≤ n.toNat ∧ n.toNat ≤ s.mix.length
    · exact .inr ⟨w, h.1, h.2, rfl, exec_render_accepted crush h.1 h.2 hw⟩
    · exact .inl (exec_render_rejected crush (by omega))

/-- Everything a command can do, one case a shape. -/
theorem exec_cases (i : Instr) (s : State) :
    (∃ v, i.voiceOperand = some v ∧ i.isGet = false ∧ exec i s = .next (s.updateVoice v (voiceEffect i s))) ∨
    (∃ v g, i.voiceOperand = some v ∧ i.isGet = true ∧ exec i s = .next (s.answer v g)) ∨
    (i = .nop ∧ exec i s = .next s) ∨
    (∃ depth id base size, i = .regWt depth id base size ∧
      (exec i s = .next s ∨ ∃ d, depthOperand depth = some d ∧
        exec i s = .next { s with
          wreg := s.wreg.set id.toNat { valid := true, base := base, size := size, depth := d } })) ∨
    (∃ id base length rate root, i = .regSmp id base length rate root ∧
      exec i s = .next { s with
        sreg := s.sreg.set id.toNat { valid := true, base := base, length := length, rate := rate, root := root } }) ∨
    (∃ hz, i = .setRate hz ∧ (exec i s = .next s ∨ hz ≠ 0 ∧
      exec i s = .next { s with ctrlRate := hz, ctrlInterval := intervalOfRate s.fs hz })) ∨
    (∃ volume, i = .setMvol volume ∧ exec i s = .next { s with master := volume }) ∨
    (∃ n width crush, i = .render n width crush ∧ (exec i s = .next s ∨
      ∃ w, 1 ≤ n.toNat ∧ n.toNat ≤ s.mix.length ∧ outWidthOfCode width = some w ∧
        exec i s = .next (rendered n.toNat w crush s))) := by
  cases hg : i.isGet with
  | true =>
    obtain ⟨v, hv⟩ := isGet_voiceOperand hg
    obtain ⟨g, h⟩ := exec_get s hv hg
    exact .inr (.inl ⟨v, g, hv, rfl, h⟩)
  | false =>
    cases hv : i.voiceOperand with
    | some v => exact .inl ⟨v, rfl, rfl, exec_voice s hv hg⟩
    | none =>
      refine .inr (.inr ?_)
      cases i <;> simp only [Instr.voiceOperand, Instr.isGet, reduceCtorEq] at hv hg
      case nop => exact .inl ⟨rfl, rfl⟩
      case regWt depth id base size =>
        refine .inr (.inl ⟨depth, id, base, size, rfl, ?_⟩)
        cases hd : depthOperand depth with
        | none => exact .inl (by simp [exec, execRegWt, hd])
        | some d => exact .inr ⟨d, rfl, by simp [exec, execRegWt, hd]⟩
      case regSmp id base length rate root => exact .inr (.inr (.inl ⟨id, base, length, rate, root, rfl, rfl⟩))
      case setRate hz =>
        refine .inr (.inr (.inr (.inl ⟨hz, rfl, ?_⟩)))
        by_cases h : hz = 0
        · exact .inl (by simp [exec, execSetRate, h])
        · exact .inr ⟨h, by rw [exec, execSetRate, if_neg h]⟩
      case setMvol volume => exact .inr (.inr (.inr (.inr (.inl ⟨volume, rfl, rfl⟩))))
      case render n width crush =>
        exact .inr (.inr (.inr (.inr (.inr ⟨n, width, crush, rfl, exec_render_cases s n width crush⟩))))

/-- A step is a command executed with its words taken off the stream, an undefined opcode dropped, or a wait. -/
theorem step_cases (s : State) :
    (∃ i rest, decode s.cmd = .instr i rest ∧ step s = exec i { s with cmd := rest }) ∨
    (∃ op rest, decode s.cmd = .undefinedOpcode op rest ∧ step s = .next { s with cmd := rest }) ∨
    (decode s.cmd = .incomplete ∧ step s = .next s) := by
  unfold step
  cases h : decode s.cmd with
  | instr i rest => exact .inl ⟨i, rest, rfl, rfl⟩
  | undefinedOpcode op rest => exact .inr (.inl ⟨op, rest, rfl, rfl⟩)
  | incomplete => exact .inr (.inr ⟨rfl, rfl⟩)

/-! ## The fields of the state an accepted RENDER leaves -/

theorem rendered_voices (n : Nat) (w : OutWidth) (crush : Bool) (s : State) :
    (rendered n w crush s).voices = (renderSlots s.ctx (runScheduler n s).voices (List.replicate n 0)).2 := rfl

theorem rendered_mix (n : Nat) (w : OutWidth) (crush : Bool) (s : State) :
    (rendered n w crush s).mix =
      (renderSlots s.ctx (runScheduler n s).voices (List.replicate n 0)).1 ++ s.mix.drop n := rfl

theorem rendered_out (n : Nat) (w : OutWidth) (crush : Bool) (s : State) :
    (rendered n w crush s).out = s.out ++
      ((renderSlots s.ctx (runScheduler n s).voices (List.replicate n 0)).1.map fun m =>
        u32 (quantize s.master w crush m.toInt)) := by
  simp [rendered, emitBlock, renderBlock]

theorem rendered_eq (n : Nat) (w : OutWidth) (crush : Bool) (s : State) :
    rendered n w crush s =
      { s with
        voices := (rendered n w crush s).voices, ctrlCounter := (runScheduler n s).ctrlCounter,
        mix := (rendered n w crush s).mix, out := (rendered n w crush s).out } := rfl

/-- Every voice after a RENDER: some number of control ticks, the same for every slot, then one block. -/
theorem rendered_voices_slots (n : Nat) (w : OutWidth) (crush : Bool) (s : State) :
    ∃ k, (rendered n w crush s).voices =
      s.voices.map fun x => (renderSlot s.ctx ((tickVoice s.ctx)^[k] x) (List.replicate n 0)).2 := by
  obtain ⟨k, rest, h⟩ := tickLoop_slot s.ctx s.ctrlInterval.toNat (s.ctrlCounter.toNat + n) (s.ctrlCounter.toNat + n)
  refine ⟨k, ?_⟩
  rw [rendered_voices, renderSlots_voices, runScheduler]
  simp [h]

theorem rendered_mix_length {n : Nat} (w : OutWidth) (crush : Bool) {s : State} (h : n ≤ s.mix.length) :
    (rendered n w crush s).mix.length = s.mix.length := by
  simp [rendered_mix, h]

theorem rendered_voices_length (n : Nat) (w : OutWidth) (crush : Bool) (s : State) :
    (rendered n w crush s).voices.length = s.voices.length := by
  simp [rendered_voices, renderSlots_voices]

end Sys2Proof.Machine
end

