-- ==== Sys2Proof/Laws/Memory.lean ====
section
/-! SUPPORT. Table memory: what populating a byte does to a read of one byte, the canonical form, and reads of several
bytes. -/

namespace Sys2Proof.Machine

theorem byteAt?_putByte_self (m : Memory) (a : Nat) (b : Byte) : byteAt? (putByte m a b) a = some b := by
  induction m with
  | nil => simp [putByte, byteAt?]
  | cons e m ih =>
    obtain ⟨k, x⟩ := e
    simp only [putByte]
    split
    · simp [byteAt?]
    · split
      · simp [byteAt?]
      · rw [byteAt?, if_neg (by omega), ih]

theorem byteAt?_putByte_other (m : Memory) {a a' : Nat} (b : Byte) (h : a' ≠ a) :
    byteAt? (putByte m a b) a' = byteAt? m a' := by
  induction m with
  | nil => simp [putByte, byteAt?, Ne.symm h]
  | cons e m ih =>
    obtain ⟨k, x⟩ := e
    simp only [putByte]
    split
    · simp [byteAt?, Ne.symm h]
    · split
      · rename_i hak
        subst hak
        simp [byteAt?, Ne.symm h]
      · simp only [byteAt?, ih]

theorem Memory.wfFrom_mono {m : Memory} {lo lo' : Nat} (h : Memory.wfFrom lo m = true) (hle : lo' ≤ lo) :
    Memory.wfFrom lo' m = true := by
  cases m with
  | nil => rfl
  | cons e m =>
    simp only [Memory.wfFrom, Bool.and_eq_true, decide_eq_true_eq] at h ⊢
    exact ⟨⟨by omega, h.1.2⟩, h.2⟩

theorem wfFrom_putByte {m : Memory} {lo a : Nat} (b : Byte) (h : Memory.wfFrom lo m = true) (hlo : lo ≤ a)
    (ha : a < addrSpace) : Memory.wfFrom lo (putByte m a b) = true := by
  induction m generalizing lo with
  | nil => simp [putByte, Memory.wfFrom, hlo, ha]
  | cons e m ih =>
    obtain ⟨k, x⟩ := e
    simp only [Memory.wfFrom, Bool.and_eq_true, decide_eq_true_eq] at h
    simp only [putByte]
    split
    · rename_i hak
      simp only [Memory.wfFrom, Bool.and_eq_true, decide_eq_true_eq]
      exact ⟨⟨hlo, ha⟩, ⟨hak, h.1.2⟩, h.2⟩
    · split
      · rename_i hak
        subst hak
        simp only [Memory.wfFrom, Bool.and_eq_true, decide_eq_true_eq]
        exact ⟨⟨hlo, ha⟩, h.2⟩
      · simp only [Memory.wfFrom, Bool.and_eq_true, decide_eq_true_eq]
        exact ⟨h.1, ih h.2 (by omega)⟩

/-- Populating a byte keeps the canonical form; it is the one operation that writes table memory. -/
theorem wf_putByte {m : Memory} {a : Nat} (b : Byte) (h : m.wf = true) (ha : a < addrSpace) :
    Memory.wf (putByte m a b) = true := wfFrom_putByte b h (Nat.zero_le a) ha

theorem wf_empty : Memory.wf [] = true := rfl

theorem reset_mem_wf : State.reset.mem.wf = true := rfl

theorem platformWrite_mem_wf {s : State} (a : Word) (b : Byte) (h : s.mem.wf = true) :
    (s.platformWrite a b).mem.wf = true := wf_putByte b h a.isLt

theorem memByte_putByte_self (m : Memory) (a : Nat) (b : Byte) (ha : a < addrSpace) :
    memByte (putByte m a b) a = b := by
  simp [memByte, Nat.mod_eq_of_lt ha, byteAt?_putByte_self]

theorem memByte_putByte_other (m : Memory) {a a' : Nat} (b : Byte) (h : a' % addrSpace ≠ a) :
    memByte (putByte m a b) a' = memByte m a' := by
  simp [memByte, byteAt?_putByte_other m b h]

theorem memRead_lt (m : Memory) (a n : Nat) : memRead m a n < 256 ^ n := by
  induction n generalizing a with
  | zero => simp [memRead]
  | succ n ih =>
    have hb := (memByte m a).isLt
    have := ih (a + 1)
    rw [memRead, Nat.pow_succ]
    omega

end Sys2Proof.Machine
end

