-- ==== Sys2Proof/Laws/Ranges.lean ====
section
/-! SUPPORT. The range of every oscillator's sample and of a contribution, and the moves of a play head. -/

namespace Sys2Proof.Machine

theorem basicSample_range (c : Ctx) (shape : Shape) (p pw : Word) :
    -32768 ≤ basicSample c shape p pw ∧ basicSample c shape p pw ≤ 32767 := by
  unfold basicSample
  split
  · exact s16_range _
  · have := romWord_range c (p.toNat >>> 20)
    unfold sine shr
    omega
  · unfold pulse
    dsimp only [pulseAmp]
    split <;> omega
  · have := s16_range (p.toNat >>> 16)
    unfold tri saw
    split <;> omega

theorem nibbleOf_lt (order : NibbleOrder) {b : Nat} (k : Nat) (hb : b < 256) : nibbleOf order b k < 16 := by
  unfold nibbleOf
  cases order <;> dsimp only <;> split <;> omega

theorem wtElem_range (c : Ctx) (e : WtEntry) (k : Nat) : -32768 ≤ wtElem c e k ∧ wtElem c e k ≤ 32767 := by
  unfold wtElem
  split
  · exact s16_range _
  · split
    · have := memRead_lt c.mem (e.base.toNat + k) 1
      omega
    · have := nibbleOf_lt c.nibbleOrder k (memRead_lt c.mem (e.base.toNat + (k >>> 1)) 1)
      omega

theorem sampleFetch_range (c : Ctx) (e : SmpEntry) (pos : BitVec 64) :
    -32768 ≤ sampleFetch c e pos ∧ sampleFetch c e pos ≤ 32767 := by
  unfold sampleFetch
  split
  · exact s16_range _
  · omega

/-- A crossfade of two values of the sample range stays in it (R247). -/
theorem crossfade_range {a b m : Int} (ha : -32768 ≤ a ∧ a ≤ 32767) (hb : -32768 ≤ b ∧ b ≤ 32767)
    (hm : 0 ≤ m ∧ m ≤ 256) :
    -32768 ≤ shr (a * (256 - m) + b * m) 8 ∧ shr (a * (256 - m) + b * m) 8 ≤ 32767 := by
  have h1 : a * (256 - m) ≤ 32767 * (256 - m) := Int.mul_le_mul_of_nonneg_right ha.2 (by omega)
  have h2 : b * m ≤ 32767 * m := Int.mul_le_mul_of_nonneg_right hb.2 (by omega)
  have h3 : -32768 * (256 - m) ≤ a * (256 - m) := Int.mul_le_mul_of_nonneg_right ha.1 (by omega)
  have h4 : -32768 * m ≤ b * m := Int.mul_le_mul_of_nonneg_right hb.1 (by omega)
  unfold shr
  omega

theorem contribution_zero (g : Nat) (e : Int) : contribution 0 g e = 0 := by simp [contribution, shr]

/-- What one voice adds to a mix entry (`48_block_mixer_quantizer.md` R277). -/
theorem contribution_range {s e : Int} {g : Nat} (hs : -32768 ≤ s ∧ s ≤ 32767) (hg : g ≤ 254)
    (he : 0 ≤ e ∧ e ≤ envMax) : -32512 ≤ contribution s g e ∧ contribution s g e ≤ 32511 := by
  dsimp only [envMax] at he
  have hk : 0 ≤ (g : Int) * (e / 1048576) ∧ (g : Int) * (e / 1048576) ≤ 254 * 256 :=
    ⟨Int.mul_nonneg (by omega) (by omega), Int.mul_le_mul (by omega) (by omega) (by omega) (by omega)⟩
  have h1 : s * ((g : Int) * (e / 1048576)) ≤ 32767 * (254 * 256) := by
    calc s * ((g : Int) * (e / 1048576)) ≤ 32767 * ((g : Int) * (e / 1048576)) :=
          Int.mul_le_mul_of_nonneg_right (by omega) hk.1
      _ ≤ 32767 * (254 * 256) := by omega
  have h2 : -32768 * (254 * 256) ≤ s * ((g : Int) * (e / 1048576)) := by
    calc -32768 * (254 * 256) ≤ -32768 * ((g : Int) * (e / 1048576)) := by omega
      _ ≤ s * ((g : Int) * (e / 1048576)) := Int.mul_le_mul_of_nonneg_right (by omega) hk.1
  rw [← Int.mul_assoc] at h1
  rw [← Int.mul_assoc s] at h2
  unfold contribution shr
  norm_num at *
  omega

/-! ## The play head -/

theorem headForward_cases {hi : Nat} (sinc : Nat) (turn h : PlayHead) (hh : hi < 2 ^ 64) :
    (hi ≤ h.pos.toNat + sinc ∧ headForward hi sinc turn h = turn) ∨
    (h.pos.toNat + sinc < hi ∧
      ∃ p : BitVec 64, p.toNat = h.pos.toNat + sinc ∧ headForward hi sinc turn h = { h with pos := p }) := by
  unfold headForward
  split
  · exact .inl ⟨by assumption, rfl⟩
  · refine .inr ⟨by omega, _, ?_, rfl⟩
    rw [BitVec.toNat_ofNat]
    omega

theorem headBackward_cases (lo sinc : Nat) (turn h : PlayHead) :
    (h.pos.toNat < lo + sinc ∧ headBackward lo sinc turn h = turn) ∨
    (lo + sinc ≤ h.pos.toNat ∧
      ∃ p : BitVec 64, p.toNat = h.pos.toNat - sinc ∧ headBackward lo sinc turn h = { h with pos := p }) := by
  unfold headBackward
  split
  · exact .inl ⟨by omega, rfl⟩
  · refine .inr ⟨by omega, _, ?_, rfl⟩
    have := h.pos.isLt
    have e : ((h.pos.toNat : Int) - sinc) % ((2 ^ 64 : Nat) : Int) = (h.pos.toNat : Int) - sinc :=
      Int.emod_eq_of_lt (by omega) (by omega)
    rw [BitVec.toNat_ofInt, e]
    omega

end Sys2Proof.Machine
end

