-- ==== Sys2Proof/Laws/Mix.lean ====
section
/-! SUPPORT. What a voice adds to the mix: an amount per sample that does not depend on what the mix holds, -32512 to
32511 for a voice whose envelope is in range. -/

namespace Sys2Proof.Machine

/-- A renderer over blocks of n samples adds d i to entry i, whatever the entries hold, and every d i is in range. -/
def Adds (n : Nat) (render : List Word → List Word) (d : Nat → Int) : Prop :=
  (∀ i, i < n → -32512 ≤ d i ∧ d i ≤ 32511) ∧
  ∀ mix : List Word, mix.length = n → ∀ (i : Nat) (m : Word), mix[i]? = some m →
    (render mix)[i]? = some (u32 (m.toInt + d i))

theorem adds_nothing (n : Nat) : Adds n id fun _ => 0 :=
  ⟨fun _ _ => by simp, fun _ _ _ m h => by simpa [u32] using h⟩

theorem srcSample_range (c : Ctx) (code : Half) (p pw : Word) :
    -32768 ≤ srcSample c code p pw ∧ srcSample c code p pw ≤ 32767 := by
  unfold srcSample wtSample
  split
  · split
    · exact basicSample_range ..
    · omega
  · split
    · omega
    · exact wtElem_range ..

theorem trkSample_range (c : Ctx) (x : Voice) (p : Word) : -32768 ≤ trkSample c x p ∧ trkSample c x p ≤ 32767 := by
  have := x.trkMorph.isLt
  unfold trkSample
  dsimp only
  split
  · exact srcSample_range ..
  · exact crossfade_range (srcSample_range ..) (srcSample_range ..) (by omega)

theorem adds_renderPhase {n : Nat} {sample : Word → Int} {r : Ramp} (x : Voice)
    (hs : ∀ p, -32768 ≤ sample p ∧ sample p ≤ 32767) (hr : ∀ i, i < n → 0 ≤ r.env i ∧ r.env i ≤ envMax) :
    ∃ d, Adds n (fun mix => (renderPhase sample r x mix).1) d := by
  refine ⟨fun i => contribution (sample (x.phase + BitVec.ofNat 32 i * x.effInc)) x.gain (r.env i),
    fun i hi => ?_, fun mix _ i m h => ?_⟩
  · have := contribution_range (hs (x.phase + BitVec.ofNat 32 i * x.effInc)) (gain_le x) (hr i hi)
    dsimp only
    omega
  · dsimp only
    rw [renderPhase, phaseLoop_get _ _ _ _ h, Nat.zero_add, mixAdd]

theorem noiseLoop_adds (step : Word) {g : Nat} (hg : g ≤ 254) {r : Ramp} (n i : Nat) (p seed : Word)
    (hr : ∀ k, k < n → 0 ≤ r.env (i + k) ∧ r.env (i + k) ≤ envMax) :
    ∃ d, Adds n (fun mix => (noiseLoop step g r mix i p seed).1) d := by
  induction n generalizing i p seed with
  | zero =>
    refine ⟨fun _ => 0, fun _ _ => by simp, fun mix hl k m h => ?_⟩
    rw [List.length_eq_zero_iff.mp hl] at h
    cases h
  | succ n ih =>
    obtain ⟨d, hd, ha⟩ := ih (i + 1) (p + step) (if noiseClock p step then noiseNext seed else seed)
      fun k hk => by rw [show i + 1 + k = i + (k + 1) by omega]; exact hr (k + 1) (by omega)
    refine ⟨fun k => match k with | 0 => contribution (noiseSample seed) g (r.env i) | k + 1 => d k,
      fun k hk => ?_, fun mix hl k m h => ?_⟩
    · cases k with
      | zero =>
        have := contribution_range (s := noiseSample seed) (s16_range _) hg (hr 0 (by omega))
        rw [Nat.add_zero] at this
        dsimp only
        omega
      | succ k => exact hd k (by omega)
    · cases mix with
      | nil => cases h
      | cons m' ms =>
        cases k with
        | zero =>
          obtain rfl : m' = m := by simpa using h
          rfl
        | succ k => exact ha ms (by simpa using hl) k m (by simpa using h)

theorem sampleLoop_adds (c : Ctx) (e : SmpEntry) (x : Voice) (sinc : Nat) {r : Ramp} (n i : Nat) (hd : PlayHead)
    (hr : ∀ k, k < n → 0 ≤ r.env (i + k) ∧ r.env (i + k) ≤ envMax) :
    ∃ d, Adds n (fun mix => (sampleLoop c e x sinc r mix i hd).1) d := by
  induction n generalizing i hd with
  | zero =>
    refine ⟨fun _ => 0, fun _ _ => by simp, fun mix hl k m h => ?_⟩
    rw [List.length_eq_zero_iff.mp hl] at h
    cases h
  | succ n ih =>
    cases he : hd.ended with
    | true =>
      refine ⟨fun _ => 0, fun _ _ => by simp, fun mix hl k m h => ?_⟩
      dsimp only
      rw [sampleLoop_ended _ _ _ _ _ _ _ he]
      simpa [u32] using h
    | false =>
      obtain ⟨d, hdb, ha⟩ := ih (i + 1) (sampleStep x e.length.toNat sinc hd)
        fun k hk => by rw [show i + 1 + k = i + (k + 1) by omega]; exact hr (k + 1) (by omega)
      refine ⟨fun k => match k with | 0 => contribution (sampleFetch c e hd.pos) x.gain (r.env i) | k + 1 => d k,
        fun k hk => ?_, fun mix hl k m h => ?_⟩
      · cases k with
        | zero =>
          have := contribution_range (sampleFetch_range c e hd.pos) (gain_le x) (hr 0 (by omega))
          rw [Nat.add_zero] at this
          dsimp only
          omega
        | succ k => exact hdb k (by omega)
      · cases mix with
        | nil => cases h
        | cons m' ms =>
          dsimp only
          rw [sampleLoop, if_neg (by simp [he])]
          cases k with
          | zero =>
            obtain rfl : m' = m := by simpa using h
            rfl
          | succ k => exact ha ms (by simpa using hl) k m (by simpa using h)

/-- Every renderer adds (R271). -/
theorem adds_renderVoice (c : Ctx) {n : Nat} {r : Ramp} (x : Voice)
    (hr : ∀ i, i < n → 0 ≤ r.env i ∧ r.env i ≤ envMax) : ∃ d, Adds n (fun mix => (renderVoice c r x mix).1) d := by
  have hr' : ∀ k, k < n → 0 ≤ r.env (0 + k) ∧ r.env (0 + k) ≤ envMax := fun k hk => by
    rw [Nat.zero_add]
    exact hr k hk
  unfold renderVoice
  split
  · exact adds_renderPhase x (trkSample_range c x) hr
  · split
    · exact adds_renderPhase x (fun p => basicSample_range c x.shape p x.pulseWidth) hr
    · refine adds_renderPhase x (fun p => ?_) hr
      unfold wtSample
      split
      · omega
      · exact wtElem_range ..
    · unfold renderSample
      split
      · exact ⟨_, adds_nothing n⟩
      · split
        · exact ⟨_, adds_nothing n⟩
        · exact sampleLoop_adds c _ x _ n 0 _ hr'
    · exact noiseLoop_adds x.phaseInc (gain_le x) n 0 _ _ hr'

end Sys2Proof.Machine
end

