-- ==== Sys2Proof/Laws/Inv.lean ====
section
/-! SUPPORT. The invariants of a voice, procedure by procedure. -/

namespace Sys2Proof.Machine

theorem Voice.reset_inv : Voice.reset.Inv := by constructor <;> decide

/-! ## Envelope and rendering -/

/-- The value a block stores is in range (R122). -/
theorem envBlock_value_le (n : Nat) {x : Voice} (he : x.envValue.toNat ≤ envMax) (hs : x.sustain.toNat ≤ envMax) :
    (envBlock n x).2.envValue.toNat ≤ envMax := by
  have line (p : Ramp × Voice) (h : ∃ stop : Int, 0 ≤ stop ∧ stop ≤ envMax ∧ p.1 = rampTo x.envValue.toNat stop n ∧
      (p.2.envValue.toNat : Int) = stop) : p.2.envValue.toNat ≤ envMax := by
    obtain ⟨stop, _, h2, _, h4⟩ := h
    omega
  unfold envBlock
  split
  · simp [Voice.setEnvValue]
  · split
    · simp [Voice.setEnvValue]
    · split
      · simp [Voice.setEnvValue]
      · exact line _ (attackBlock_line n he hs)
    · split
      · exact hs
      · exact line _ (decayBlock_line n he hs)
    · exact he
    · split
      · simp [Voice.enterIdle]
      · exact line _ (releaseBlock_line n he)

/-- A block leaves an active voice active and out of Idle, or ends it (R110, R37). -/
theorem envBlock_status (n : Nat) {x : Voice} (ha : x.active = true) (hi : x.envState ≠ .idle) :
    (envBlock n x).2.active = true ∧ (envBlock n x).2.envState ≠ .idle ∨
      (envBlock n x).2.active = false ∧ (envBlock n x).2.envState = .idle ∧ (envBlock n x).2.envValue = 0 := by
  have hend (b : Bool) : (if b then EnvState.sustain else EnvState.decay) ≠ .idle := by cases b <;> simp
  unfold envBlock
  split
  · exact .inl ⟨ha, hi⟩
  · split
    · rename_i h
      exact absurd h hi
    · split
      · exact .inl ⟨ha, by simp⟩
      · unfold attackBlock
        dsimp only
        split
        · exact .inl ⟨ha, hi⟩
        · exact .inl ⟨ha, hend _⟩
    · split
      · exact .inl ⟨ha, by simp⟩
      · unfold decayBlock
        exact .inl ⟨ha, hend _⟩
    · exact .inl ⟨ha, hi⟩
    · split
      · exact .inr ⟨rfl, rfl, rfl⟩
      · unfold releaseBlock
        dsimp only
        split
        · exact .inr ⟨rfl, rfl, rfl⟩
        · exact .inl ⟨ha, hi⟩

theorem Voice.Inv.not_idle {x : Voice} (h : x.Inv) (ha : x.active = true) : x.envState ≠ .idle := by
  intro he
  rw [h.inactive_iff_idle.mpr he] at ha
  cases ha

/-- The invariants of a voice of which only status, envelope, oscillator position and finished flag changed. -/
theorem Voice.Inv.of_status {x : Voice} (h : x.Inv) {act fin : Bool} {st : EnvState} {val : BitVec 29} {phase seed : Word}
    {pos : BitVec 64} {dir : Direction} (h1 : act = false ↔ st = .idle) (h2 : st = .idle → val = 0)
    (h3 : val.toNat ≤ envMax) (h4 : fin = true → act = false) :
    Voice.Inv { x with active := act, envState := st, envValue := val, phase := phase, noiseSeed := seed, smpPos := pos,
                       smpDir := dir, smpFinished := fin } where
  inactive_iff_idle := h1
  idle_value := h2
  env_le := h3
  sustain_le := h.sustain_le
  one_binding := h.one_binding
  finished_inactive := h4
  arp_len := h.arp_len
  arp_notes := h.arp_notes
  arp_index := h.arp_index
  arp_counter := h.arp_counter
  trem_gain := h.trem_gain
  trk_stage := h.trk_stage
  trk_morph := h.trk_morph
  glide_left := h.glide_left
  glide_rem := h.glide_rem
  glide_acc := h.glide_acc

/-- One round of the voice loop keeps the invariants of its voice. -/
theorem renderSlot_inv (c : Ctx) (mix : List Word) {x : Voice} (h : x.Inv) : (renderSlot c x mix).2.Inv := by
  cases ha : x.active with
  | false => rwa [renderSlot_inactive c ha]
  | true =>
    have hfin : x.smpFinished ≠ true := fun hf => by
      have := h.finished_inactive hf
      rw [ha] at this
      cases this
    have hle := envBlock_value_le mix.length h.env_le h.sustain_le
    have hst := envBlock_status mix.length ha (h.not_idle ha)
    obtain ⟨act, st, val, he⟩ := envBlock_frame mix.length x
    rw [he] at hle hst
    dsimp only at hle hst
    have hiff : act = false ↔ st = .idle := by
      rcases hst with ⟨h1, h2⟩ | ⟨h1, h2, _⟩
      · simp [h1, h2]
      · simp [h1, h2]
    have hval : st = .idle → val = 0 := by
      rcases hst with ⟨_, h2⟩ | ⟨_, _, h3⟩
      · exact fun e => absurd e h2
      · exact fun _ => h3
    have henv : (envBlock mix.length x).2.Inv := by
      rw [he]
      exact h.of_status hiff hval hle fun hf => absurd hf hfin
    unfold renderSlot
    rw [if_pos ha]
    dsimp only
    split
    · exact henv
    · obtain ⟨_, _, _, _, hr | hr⟩ := renderVoice_frame c (envBlock mix.length x).1 (envBlock mix.length x).2 mix <;>
        rw [hr, he]
      · exact h.of_status hiff hval hle fun hf => absurd hf hfin
      · exact h.of_status (by simp) (by simp) (by simp) (by simp)

/-! ## Tracker -/

/-- The invariants of a voice of which only status, envelope value and the tracker's fields changed. -/
theorem Voice.Inv.of_tracker {x : Voice} (h : x.Inv) {act : Bool} {st : EnvState} {val : BitVec 29} {stage : BitVec 5}
    {tick : Word} {cur nxt : Half} {morph vol : Byte} (h1 : act = false ↔ st = .idle) (h2 : st = .idle → val = 0)
    (h3 : val.toNat ≤ envMax) (h4 : x.smpFinished = true → act = false) (h5 : stage.toNat ≤ trkMax)
    (h6 : morph.toNat ≤ 254) :
    Voice.Inv { x with active := act, envState := st, envValue := val, trkStage := stage, trkTick := tick,
                       trkCur := cur, trkNext := nxt, trkMorph := morph, trkVol := vol } where
  inactive_iff_idle := h1
  idle_value := h2
  env_le := h3
  sustain_le := h.sustain_le
  one_binding := h.one_binding
  finished_inactive := h4
  arp_len := h.arp_len
  arp_notes := h.arp_notes
  arp_index := h.arp_index
  arp_counter := h.arp_counter
  trem_gain := h.trem_gain
  trk_stage := h5
  trk_morph := h6
  glide_left := h.glide_left
  glide_rem := h.glide_rem
  glide_acc := h.glide_acc

theorem attackLen_le (c : Ctx) (a : Nat) : attackLen c a ≤ trkMax := Nat.min_le_right _ _

theorem releaseLen_le (c : Ctx) (a : Nat) : releaseLen c a ≤ trkMax := Nat.min_le_right _ _

theorem stageTicks_pos (c : Ctx) (a : Nat) : 1 ≤ stageTicks c a := Nat.le_max_left _ _

theorem stageTicks_le (c : Ctx) (a : Nat) : stageTicks c a ≤ 4294967295 := by
  have := ticksFromMs_le c.ctrlRate (stageMs c a)
  unfold stageTicks
  omega

/-- The morph factor is at most 254 while the tick count is below the length of a stage (R243). -/
theorem trkMorphOf_le (c : Ctx) {x : Voice}
    (h : x.envState = .attack ∨ x.envState = .release → x.trkTick.toNat < stageTicks c x.trkAddr.toNat) :
    (trkMorphOf c x).toNat ≤ 254 := by
  unfold trkMorphOf
  dsimp only
  split
  · rename_i hs
    have hlt := h hs.2
    have : x.trkTick.toNat * 255 / stageTicks c x.trkAddr.toNat < 255 := by
      rw [Nat.div_lt_iff_lt_mul (stageTicks_pos c _), Nat.mul_comm]
      omega
    rw [BitVec.toNat_ofNat]
    generalize x.trkTick.toNat * 255 / stageTicks c x.trkAddr.toNat = q at *
    omega
  · simp

/-- `TrkLoad` keeps the invariants, from a stage counter that may be one past the end and a tick count below the length
of a stage. `x` is the voice before its counters moved. -/
theorem trkLoad_inv (c : Ctx) {x : Voice} (h : x.Inv) (addr inst : Word) (stage : BitVec 5) (tick : Word)
    (hb : addr = 0 ∨ inst = 0) (hs : stage.toNat ≤ trkMax ∨ x.envState = .attack ∨ x.envState = .release)
    (ht : addr ≠ 0 → x.envState = .attack ∨ x.envState = .release → tick.toNat < stageTicks c addr.toNat)
    (h0 : addr = 0 → stage.toNat ≤ trkMax) :
    (trkLoad c { x with trkAddr := addr, smpInstAddr := inst, trkStage := stage, trkTick := tick }).Inv := by
  have hx : Voice.Inv { x with trkAddr := addr, smpInstAddr := inst } := { h with one_binding := hb }
  unfold trkLoad
  split
  · rename_i ha
    exact hx.of_tracker h.inactive_iff_idle h.idle_value h.env_le h.finished_inactive (h0 ha) h.trk_morph
  · rename_i ha
    dsimp only at ha
    generalize hy : trkNormalise c _ = y
    rw [trkNormalise_eq] at hy
    dsimp only at hy ⊢
    by_cases hn : x.envState = .attack ∧ attackLen c addr.toNat ≤ stage.toNat ∨ x.envState = .decay
    · rw [if_pos hn] at hy
      have hni : x.active ≠ false := fun hf => by
        rw [h.inactive_iff_idle.mp hf] at hn
        simp at hn
      subst hy
      exact hx.of_tracker (by simp [hni]) (by simp) h.env_le h.finished_inactive (by simp)
        (trkMorphOf_le c (by simp))
    · rw [if_neg hn] at hy
      by_cases hr : x.envState = .release ∧ releaseLen c addr.toNat ≤ stage.toNat
      · rw [if_pos hr] at hy
        subst hy
        exact hx.of_tracker (by simp) (by simp) (by simp) (by simp) (by simp) h.trk_morph
      · rw [if_neg hr] at hy
        have hst : stage.toNat ≤ trkMax := by
          have h1 := attackLen_le c addr.toNat
          have h2 := releaseLen_le c addr.toNat
          rcases hs with hs | hs | hs
          · exact hs
          · simp only [hs, true_and, not_or] at hn
            omega
          · simp only [hs, true_and] at hr
            omega
        subst hy
        split
        · exact hx.of_tracker h.inactive_iff_idle h.idle_value h.env_le h.finished_inactive hst h.trk_morph
        · exact hx.of_tracker h.inactive_iff_idle h.idle_value h.env_le h.finished_inactive hst
            (trkMorphOf_le c fun he => ht ha he)

theorem trackerTick_inv (c : Ctx) {x : Voice} (h : x.Inv) : (trackerTick c x).Inv := by
  have hle := stageTicks_le c x.trkAddr.toNat
  have hpos := stageTicks_pos c x.trkAddr.toNat
  unfold trackerTick
  split
  · exact h
  · rename_i ha
    unfold trkAdvance
    split
    · rename_i hs
      split
      · exact trkLoad_inv c h x.trkAddr x.smpInstAddr (x.trkStage + 1) 0 h.one_binding (.inr hs)
          (fun _ _ => by simp; omega) (fun h0 => absurd h0 ha)
      · rename_i hlt
        refine trkLoad_inv c h x.trkAddr x.smpInstAddr x.trkStage (x.trkTick + 1) h.one_binding (.inl h.trk_stage)
          (fun _ _ => ?_) (fun h0 => absurd h0 ha)
        have h1 : (1 : Word).toNat = 1 := rfl
        rw [BitVec.toNat_add, h1]
        omega
    · rename_i hs
      exact trkLoad_inv c h x.trkAddr x.smpInstAddr x.trkStage x.trkTick h.one_binding (.inl h.trk_stage)
        (fun _ he => absurd he hs) (fun h0 => absurd h0 ha)

/-- A sequence started over keeps the invariants. -/
theorem restartTracker_inv (c : Ctx) {x : Voice} (h : x.Inv) : (restartTracker c x).Inv := by
  have hpos := stageTicks_pos c x.trkAddr.toNat
  unfold restartTracker
  split
  · exact trkLoad_inv c h x.trkAddr x.smpInstAddr 0 0 h.one_binding (.inl (by simp)) (fun _ _ => by simp; omega)
      (fun _ => by simp)
  · exact h

/-! ## Motion -/

theorem vibratoTick_inv (c : Ctx) {x : Voice} (h : x.Inv) : (vibratoTick c x).Inv := { h with }

/-- The tremolo gain of a tick, as an integer (R206). -/
theorem tremGain_range (c : Ctx) (depth : Byte) (p : Word) :
    1 ≤ 255 - shr (depth.toNat * (lfoSine c p + 16384)) 15 ∧ 255 - shr (depth.toNat * (lfoSine c p + 16384)) 15 ≤ 255 := by
  have hr := romWord_range c (p.toNat >>> 20)
  have hd := depth.isLt
  unfold lfoSine shr
  norm_num only
  have hl : 0 ≤ romWord c (p.toNat >>> 20) / 131072 + 16384 ∧ romWord c (p.toNat >>> 20) / 131072 + 16384 ≤ 32767 := by
    omega
  have h1 : 0 ≤ (depth.toNat : Int) * (romWord c (p.toNat >>> 20) / 131072 + 16384) :=
    Int.mul_nonneg (by omega) hl.1
  have h2 : (depth.toNat : Int) * (romWord c (p.toNat >>> 20) / 131072 + 16384) ≤ 255 * 32767 :=
    Int.mul_le_mul (by omega) hl.2 hl.1 (by omega)
  generalize (depth.toNat : Int) * (romWord c (p.toNat >>> 20) / 131072 + 16384) = z at *
  omega

theorem tremoloTick_inv (c : Ctx) {x : Voice} (h : x.Inv) : (tremoloTick c x).Inv := by
  have hg := tremGain_range c x.tremDepth (x.tremPhase + x.tremRate)
  refine { h with trem_gain := ?_ }
  unfold tremoloTick u8
  dsimp only
  generalize 255 - shr (x.tremDepth.toNat * (lfoSine c (x.tremPhase + x.tremRate) + 16384)) 15 = g at *
  rw [BitVec.toNat_ofInt]
  omega

theorem arpTick_inv (c : Ctx) {x : Voice} (h : x.Inv) : (arpTick c x).Inv := by
  unfold arpTick
  split
  · exact h
  · rename_i hne
    have hlen : 0 < x.arpLen.toNat := by
      rcases Nat.eq_zero_or_pos x.arpLen.toNat with h0 | h0
      · exact absurd (BitVec.eq_of_toNat_eq h0) hne
      · exact h0
    have hmax : x.arpLen.toNat ≤ 8 := h.arp_len
    dsimp only
    split
    · refine { h with arp_index := fun _ => ?_, arp_counter := fun _ => ?_ }
      · have := Nat.mod_lt (x.arpIndex.toNat + 1) hlen
        dsimp only
        rw [BitVec.toNat_ofNat]
        omega
      · rw [arpTicks_toNat]
        exact Nat.le_max_left _ _
    · rename_i hl
      refine { h with arp_counter := fun _ => ?_ }
      rcases Nat.eq_zero_or_pos (x.arpCounter - 1).toNat with h0 | h0
      · exact absurd (BitVec.eq_of_toNat_eq h0) hl
      · exact h0

theorem arpAttach_inv (c : Ctx) (ms : Word) (notes : List Word) {x : Voice} (h : x.Inv) :
    (arpAttach c ms notes x).Inv := by
  unfold arpAttach
  split
  · exact { h with arp_len := by simp, arp_index := by simp, arp_counter := by simp }
  · split
    · exact h
    · rename_i h0 h8
      dsimp only [arpMax] at h8
      have hn := h.arp_notes
      dsimp only [arpMax] at hn
      refine { h with arp_len := ?_, arp_notes := ?_, arp_index := fun _ => ?_, arp_counter := fun _ => ?_ }
      · dsimp only [arpMax]
        rw [BitVec.toNat_ofNat]
        omega
      · dsimp only [arpMax]
        rw [arpStore, List.length_append, List.length_drop]
        omega
      · rw [BitVec.toNat_ofNat]
        simp
        omega
      · rw [arpTicks_toNat]
        exact Nat.le_max_left _ _

/-- 34 bits hold every number below a tick count. -/
theorem glideField_toInt {y : Int} {t : Nat} (h : y.natAbs < t) (ht : t ≤ 4294967295) :
    (BitVec.ofInt 34 y).toInt = y := by
  rw [BitVec.toInt_ofInt]
  exact Int.bmod_eq_of_le (by omega) (by omega)

theorem glideSetup_inv (c : Ctx) (startInc startFreq endFreq ms : Word) {x : Voice} (h : x.Inv) :
    (glideSetup c startInc startFreq endFreq ms x).Inv := by
  have hle := ticksFromMs_le c.ctrlRate ms.toNat
  unfold glideSetup
  dsimp only
  split
  · exact { h with glide_left := by simp, glide_rem := by simp, glide_acc := by simp }
  · rename_i h0
    have ht : (BitVec.ofNat 32 (ticksFromMs c.ctrlRate ms.toNat)).toNat = ticksFromMs c.ctrlRate ms.toNat := by
      rw [BitVec.toNat_ofNat]
      omega
    generalize ticksFromMs c.ctrlRate ms.toNat = t at *
    refine { h with glide_left := fun _ => ?_, glide_rem := fun _ => ?_, glide_acc := fun _ => ?_ } <;> dsimp only
    · omega
    · have hrem : (((inc c.fs endFreq).toNat : Int) - startInc.toNat -
          tdiv (((inc c.fs endFreq).toNat : Int) - startInc.toNat) t * t).natAbs < t := by
        generalize ((inc c.fs endFreq).toNat : Int) - startInc.toNat = d
        unfold tdiv
        have := Int.natAbs_tmod d t
        rw [Int.tmod_def, Int.natAbs_natCast, Int.mul_comm] at this
        rw [this]
        exact Nat.mod_lt _ (by omega)
      rw [glideField_toInt hrem hle, ht]
      exact hrem
    · simp
      omega

/-- The corrected accumulator stays below the tick count (R222). -/
theorem glideCorrection_lt {acc : Int} {t : Nat} (h : acc.natAbs + 1 < 2 * t) :
    (glideCorrection acc t).2.natAbs < t := by
  unfold glideCorrection
  split
  · split <;> dsimp only <;> omega
  · dsimp only
    omega

theorem glideTick_inv (c : Ctx) {x : Voice} (h : x.Inv) : (glideTick c x).Inv := by
  unfold glideTick
  split
  · rename_i ha
    have hl := h.glide_left ha
    have hr := h.glide_rem ha
    have hacc := h.glide_acc ha
    have ht := x.glideTicks.isLt
    have hc := glideCorrection_lt (acc := x.glideRemAcc.toInt + x.glideRem.toInt) (t := x.glideTicks.toNat) (by omega)
    dsimp only
    refine { h with glide_left := fun hact => ?_, glide_rem := fun _ => hr, glide_acc := fun _ => ?_ } <;> dsimp only
    · have hne : x.glideLeft - 1 ≠ 0 := fun h0 => by
        rw [if_pos h0] at hact
        cases hact
      have hpos : (x.glideLeft - 1).toNat ≠ 0 := fun h0 => hne (BitVec.eq_of_toNat_eq h0)
      have : (x.glideLeft - 1).toNat ≤ x.glideLeft.toNat := by
        have h1 : (1 : Word).toNat = 1 := rfl
        rw [BitVec.toNat_sub, h1]
        omega
      omega
    · rw [glideField_toInt hc (by omega)]
      exact hc
  · exact h

/-- A control tick keeps the invariants of its voice. -/
theorem tickVoice_inv (c : Ctx) {x : Voice} (h : x.Inv) : (tickVoice c x).Inv := by
  unfold tickVoice
  split
  · exact trackerTick_inv c (glideTick_inv c (arpTick_inv c (tremoloTick_inv c (vibratoTick_inv c h))))
  · exact h

/-! ## Commands -/

/-- Every voice command keeps the invariants of its voice. -/
theorem voiceEffect_inv (i : Instr) (s : State) {x : Voice} (h : x.Inv) : (voiceEffect i s x).Inv := by
  have hbind (addr : Word) : (bindTrkVoice s.ctx addr x).Inv :=
    trkLoad_inv s.ctx h addr 0 0 0 (.inr rfl) (.inl (by simp))
      (fun _ _ => stageTicks_pos s.ctx addr.toNat) (fun _ => by simp)
  cases i <;> simp only [voiceEffect, id]
  case noteOn volume freq =>
    obtain ⟨a, b, c, rfl, _, ⟨_, _, _, _, _, _, hb⟩, _, ⟨_, _, _, _, hc⟩, hd⟩ := noteOnVoice_stages s.ctx volume freq x
    have hci : c.Inv := by
      rw [hc, hb]
      exact { h with inactive_iff_idle := by simp [Voice.claim], idle_value := by simp [Voice.claim],
                     finished_inactive := by simp [Voice.claim], glide_left := by simp [Voice.claim],
                     glide_rem := by simp [Voice.claim], glide_acc := by simp [Voice.claim] }
    rw [hd]
    exact restartTracker_inv s.ctx hci
  case noteOff =>
    unfold noteOffVoice
    split
    · rename_i ha
      exact restartTracker_inv s.ctx { h with inactive_iff_idle := by simp [ha], idle_value := by simp }
    · exact h
  case setFreq => exact { h with glide_left := by simp, glide_rem := by simp, glide_acc := by simp }
  case setWave =>
    unfold selectWave
    split
    · exact { h with }
    · split
      · exact { h with }
      · exact h
  case setEnv =>
    refine { h with sustain_le := ?_ }
    dsimp only [sustainOperand, envMax]
    rw [BitVec.toNat_ofNat]
    omega
  case bindTrk addr => exact hbind addr
  case bindSmp => exact { h with one_binding := .inl rfl }
  case unbind => exact { h with one_binding := .inl rfl }
  case setArp => exact arpAttach_inv s.ctx _ _ h
  case detArp => exact { h with arp_len := by simp, arp_index := by simp, arp_counter := by simp }
  case glide => exact glideSetup_inv s.ctx _ _ _ _ h
  case glideTo => exact glideSetup_inv s.ctx _ _ _ _ h
  all_goals first | exact h | exact { h with }

end Sys2Proof.Machine
end

