-- ==== Sys2Proof/Laws/PerInstr.lean ====
section
/-! SUPPORT. Per command: the encoding is a header word followed by exactly the operand words the header asks for
(`30_encoding.md` R91). -/

namespace Sys2Proof.Laws.EncodeShape

/-- The encoder writes a header and as many operand words as that header asks for. -/
def Statement (i : Instr) : Prop :=
  wellFormed i = true → ∃ h ops, encode i = h :: ops ∧ ops.length = operandCount h

theorem of_fixed {i : Instr} {h : Word} {ops : List Word} (he : encode i = h :: ops)
    (hc : operandCount h = ops.length) : Statement i := fun _ => ⟨h, ops, he, hc.symm⟩

theorem nop : Statement .nop :=
  of_fixed rfl (by rw [operandCount, headerOp_header (by decide)]; rfl)

theorem noteOn (v : Byte) (volume : Byte) (freq : Word) : Statement (.noteOn v volume freq) :=
  of_fixed rfl (by rw [operandCount, headerOp_header (by decide)]; rfl)

theorem noteOff (v : Byte) : Statement (.noteOff v) :=
  of_fixed rfl (by rw [operandCount, headerOp_header (by decide)]; rfl)

theorem setFreq (v : Byte) (freq : Word) : Statement (.setFreq v freq) :=
  of_fixed rfl (by rw [operandCount, headerOp_header (by decide)]; rfl)

theorem setVol (v : Byte) (volume : Byte) : Statement (.setVol v volume) :=
  of_fixed rfl (by rw [operandCount, headerOp_header (by decide)]; rfl)

theorem setWave (v : Byte) (code : Half) : Statement (.setWave v code) :=
  of_fixed rfl (by rw [operandCount, headerOp_header (by decide)]; rfl)

theorem setPw (v : Byte) (threshold : Word) : Statement (.setPw v threshold) :=
  of_fixed rfl (by rw [operandCount, headerOp_header (by decide)]; rfl)

theorem setEnv (v : Byte) (attack decay sustain release : Word) : Statement (.setEnv v attack decay sustain release) :=
  of_fixed rfl (by rw [operandCount, headerOp_header (by decide)]; rfl)

theorem setVib (v : Byte) (rate depth : Word) : Statement (.setVib v rate depth) :=
  of_fixed rfl (by rw [operandCount, headerOp_header (by decide)]; rfl)

theorem setTrem (v : Byte) (depth : Byte) (rate : Word) : Statement (.setTrem v depth rate) :=
  of_fixed rfl (by rw [operandCount, headerOp_header (by decide)]; rfl)

theorem setWt (v : Byte) (id : Half) : Statement (.setWt v id) :=
  of_fixed rfl (by rw [operandCount, headerOp_header (by decide)]; rfl)

theorem regWt (depth : Byte) (id : Half) (base size : Word) : Statement (.regWt depth id base size) :=
  of_fixed rfl (by rw [operandCount, headerOp_header (by decide)]; rfl)

theorem bindTrk (v : Byte) (addr : Word) : Statement (.bindTrk v addr) :=
  of_fixed rfl (by rw [operandCount, headerOp_header (by decide)]; rfl)

theorem bindSmp (v : Byte) (addr : Word) : Statement (.bindSmp v addr) :=
  of_fixed rfl (by rw [operandCount, headerOp_header (by decide)]; rfl)

theorem unbind (v : Byte) : Statement (.unbind v) :=
  of_fixed rfl (by rw [operandCount, headerOp_header (by decide)]; rfl)

theorem setSmp (v : Byte) (id : Half) (mode : LoopMode) (loopStart loopEnd : Word) : Statement (.setSmp v id mode loopStart loopEnd) :=
  of_fixed rfl (by rw [operandCount, headerOp_header (by decide)]; rfl)

theorem setArp (v : Byte) (ms : Word) (notes : List Word) : Statement (.setArp v ms notes) := by
  intro hw
  have hlen : notes.length ≤ 255 := by simpa [wellFormed] using hw
  refine ⟨_, _, rfl, ?_⟩
  rw [operandCount, headerOp_header (by decide)]
  simp only [headerImmLow_header (show 0x10 < 256 by decide), BitVec.toNat_ofNat, List.length_cons]
  omega

theorem detArp (v : Byte) : Statement (.detArp v) :=
  of_fixed rfl (by rw [operandCount, headerOp_header (by decide)]; rfl)

theorem glide (v : Byte) (startFreq endFreq ms : Word) : Statement (.glide v startFreq endFreq ms) :=
  of_fixed rfl (by rw [operandCount, headerOp_header (by decide)]; rfl)

theorem glideTo (v : Byte) (endFreq ms : Word) : Statement (.glideTo v endFreq ms) :=
  of_fixed rfl (by rw [operandCount, headerOp_header (by decide)]; rfl)

theorem setRate (hz : Word) : Statement (.setRate hz) :=
  of_fixed rfl (by rw [operandCount, headerOp_header (by decide)]; rfl)

theorem setMvol (volume : Byte) : Statement (.setMvol volume) :=
  of_fixed rfl (by rw [operandCount, headerOp_header (by decide)]; rfl)

theorem getFreq (v : Byte) : Statement (.getFreq v) :=
  of_fixed rfl (by rw [operandCount, headerOp_header (by decide)]; rfl)

theorem getVol (v : Byte) : Statement (.getVol v) :=
  of_fixed rfl (by rw [operandCount, headerOp_header (by decide)]; rfl)

theorem getEnv (v : Byte) : Statement (.getEnv v) :=
  of_fixed rfl (by rw [operandCount, headerOp_header (by decide)]; rfl)

theorem getEnv8 (v : Byte) : Statement (.getEnv8 v) :=
  of_fixed rfl (by rw [operandCount, headerOp_header (by decide)]; rfl)

theorem getLvl (v : Byte) : Statement (.getLvl v) :=
  of_fixed rfl (by rw [operandCount, headerOp_header (by decide)]; rfl)

theorem getLvl8 (v : Byte) : Statement (.getLvl8 v) :=
  of_fixed rfl (by rw [operandCount, headerOp_header (by decide)]; rfl)

theorem regSmp (id : Half) (base length rate root : Word) : Statement (.regSmp id base length rate root) :=
  of_fixed rfl (by rw [operandCount, headerOp_header (by decide)]; rfl)

theorem render (n : Half) (width : BitVec 2) (crush : Bool) : Statement (.render n width crush) :=
  of_fixed rfl (by rw [operandCount, headerOp_header (by decide)]; rfl)

end Sys2Proof.Laws.EncodeShape
end

