-- ==== Sys2Proof/Tests/Slice0.lean ====
section
/-! SUPPORT. The model's own tests, and for every obligation with hypotheses a concrete state and operands that meet
them. Expected values are those of `95_test_vectors.md` (its section is named) or a hand calculation from the rule
named; none is the model's own answer. -/

namespace Sys2Proof.Tests

open Sys2Proof Sys2Proof.Machine

-- One theorem at a time: each kernel evaluation in a thread of its own takes a stack, and all at once run out of memory.
set_option Elab.async false

/-! ## Decoding: the words of `95_test_vectors.md` section 2.1, one encoding of every command -/

theorem test_decode_nop : decode [0x00000000] = .instr .nop [] := by decide
theorem test_decode_noteOn : decode [0x00C80201, 0x0000ABE0] = .instr (.noteOn 2 200 44000) [] := by decide
theorem test_decode_noteOff : decode [0x00000202] = .instr (.noteOff 2) [] := by decide
theorem test_decode_setFreq : decode [0x00000203, 0x000157C0] = .instr (.setFreq 2 88000) [] := by decide
theorem test_decode_setVol : decode [0x00800204] = .instr (.setVol 2 128) [] := by decide
theorem test_decode_setWave : decode [0x00040205] = .instr (.setWave 2 4) [] := by decide
theorem test_decode_setPw : decode [0x00000206, 0x40000000] = .instr (.setPw 2 1073741824) [] := by decide
theorem test_decode_setEnv : decode [0x00000207, 0x000F4240, 0x0007A120, 0x08000000, 0x001E8480] =
    .instr (.setEnv 2 1000000 500000 134217728 2000000) [] := by decide
theorem test_decode_setVib : decode [0x00000208, 0x10000000, 0x000186A0] =
    .instr (.setVib 2 268435456 100000) [] := by decide
theorem test_decode_setTrem : decode [0x00FF0209, 0x10000000] = .instr (.setTrem 2 255 268435456) [] := by decide
theorem test_decode_setWt : decode [0x0005020A] = .instr (.setWt 2 5) [] := by decide
theorem test_decode_regWt : decode [0x0005100B, 0x00001000, 0x00000064] = .instr (.regWt 16 5 4096 100) [] := by decide
theorem test_decode_bindTrk : decode [0x0000020C, 0x00003000] = .instr (.bindTrk 2 12288) [] := by decide
theorem test_decode_bindSmp : decode [0x0000020D, 0x00004000] = .instr (.bindSmp 2 16384) [] := by decide
theorem test_decode_unbind : decode [0x0000020E] = .instr (.unbind 2) [] := by decide
theorem test_decode_setSmp : decode [0x0003020F, 0x00000001, 0x000000C8, 0x00000320] =
    .instr (.setSmp 2 3 .forward 200 800) [] := by decide
theorem test_decode_setArp : decode [0x00030210, 0x0000000A, 0x0000ABE0, 0x0000D6D8, 0x000101D0] =
    .instr (.setArp 2 10 [44000, 55000, 66000]) [] := by decide
theorem test_decode_detArp : decode [0x00000211] = .instr (.detArp 2) [] := by decide
theorem test_decode_glide : decode [0x00000212, 0x0000ABE0, 0x000157C0, 0x000003E8] =
    .instr (.glide 2 44000 88000 1000) [] := by decide
theorem test_decode_glideTo : decode [0x00000213, 0x000157C0, 0x000003E8] = .instr (.glideTo 2 88000 1000) [] := by
  decide
theorem test_decode_setRate : decode [0x00000014, 0x00000064] = .instr (.setRate 100) [] := by decide
theorem test_decode_setMvol : decode [0x00800015] = .instr (.setMvol 128) [] := by decide
theorem test_decode_getFreq : decode [0x00000216] = .instr (.getFreq 2) [] := by decide
theorem test_decode_getVol : decode [0x00000217] = .instr (.getVol 2) [] := by decide
theorem test_decode_getEnv : decode [0x00000218] = .instr (.getEnv 2) [] := by decide
theorem test_decode_getEnv8 : decode [0x00000219] = .instr (.getEnv8 2) [] := by decide
theorem test_decode_getLvl : decode [0x0000021A] = .instr (.getLvl 2) [] := by decide
theorem test_decode_getLvl8 : decode [0x0000021B] = .instr (.getLvl8 2) [] := by decide
theorem test_decode_regSmp : decode [0x0003001C, 0x00002000, 0x000003E8, 0x0000BB80, 0x0000ABE0] =
    .instr (.regSmp 3 8192 1000 48000 44000) [] := by decide
theorem test_decode_render : decode [0x0100011D] = .instr (.render 256 1 false) [] ∧
    decode [0x0200041D] = .instr (.render 512 0 true) [] ∧ decode [0x0001021D] = .instr (.render 1 2 false) [] := by
  decide

/-- The decoder corner cases of section 2.1. -/
theorem test_decode_corners : decode [0xABCD0202] = .instr (.noteOff 2) [] ∧
    decode [0xFF800204] = .instr (.setVol 2 128) [] ∧ decode [0x0008F91D] = .instr (.render 8 1 false) [] ∧
    decode [0x0000001E] = .undefinedOpcode 0x1E [] ∧ decode [0x12345EFF, 7] = .undefinedOpcode 0xFF [7] ∧
    decode [0x00090210, 1, 2, 3, 4, 5, 6, 7, 8, 9, 10, 0] = .instr (.setArp 2 1 [2, 3, 4, 5, 6, 7, 8, 9, 10]) [0] ∧
    decode [0x00000210, 5] = .instr (.setArp 2 5 []) [] := by decide

/-- The loop mode is the low two bits of its word (R92), codes in the order of `10_state.md` R25. -/
theorem test_decode_loopModes :
    decode [0x0003020F, 0xFFFFFFFC, 0, 0] = .instr (.setSmp 2 3 .off 0 0) [] ∧
    decode [0x0003020F, 2, 0, 0] = .instr (.setSmp 2 3 .pingPong 0 0) [] ∧
    decode [0x0003020F, 3, 0, 0] = .instr (.setSmp 2 3 .reverse 0 0) [] := by decide

/-- A command short of one word waits (R91), and so does an empty port. -/
theorem test_decode_waits : decode [] = .incomplete ∧ decode [0x00C80201] = .incomplete ∧
    decode [0x00030210, 10, 44000, 55000] = .incomplete := by decide

/-- The numbering of `opcode_table.json`: operand word 1 stands from bit 32 on. -/
theorem test_decodeTableWord : decodeTableWord 64 0x0000ABE000C80201 = some (.noteOn 2 200 44000) ∧
    decodeTableWord 32 0x00C80201 = some (.noteOn 2 200 0) ∧ decodeTableWord 32 0x0000001E = none := by
  decide +kernel

/-- R92: the count of SET_ARP is an 8-bit field, so 256 notes have no encoding. -/
theorem test_wellFormed_refuses : wellFormed (.setArp 0 10 (List.replicate 256 0)) = false ∧
    wellFormed (.setArp 0 10 (List.replicate 255 0)) = true := by decide +kernel

/-! ## A small machine -/

/-- Two voices, a block of eight samples, four sample ids and eight wavetable ids; the rest as R6's defaults. -/
def tiny : Config :=
  { nv := 2, fs := 48000, maxBlk := 8, ns := 4, nw := 8, nibbleOrder := .lowFirst, sineRom := defaultSineRom }

/-- A run of bytes from an address on. -/
def bytesFrom : Nat → List Byte → Memory
  | _, [] => []
  | a, b :: rest => (a, b) :: bytesFrom (a + 1) rest

/-- The bytes of section 2.3 at 0x100, the samples `1000*k` of section 2.8 at 0x2000, and the descriptors of programs
P8 (at 0x3000) and P9 (at 0x4000), the parts of them that are read. -/
def tables : Memory :=
  bytesFrom 0x100 [0x00, 0x80, 0xFF, 0x7F, 0x2F, 0x81] ++
  bytesFrom 0x2000 [0x00, 0x00, 0xE8, 0x03, 0xD0, 0x07, 0xB8, 0x0B, 0xA0, 0x0F, 0x88, 0x13, 0x70, 0x17, 0x58, 0x1B,
    0x40, 0x1F, 0x28, 0x23, 0x10, 0x27, 0xF8, 0x2A] ++
  bytesFrom 0x3000 [0x02, 0x01, 0x01, 0xC8, 0xFE, 0xFF, 0x14, 0x00, 0xFF, 0xFF, 0xFF, 0x00, 0xFD, 0xFF, 0x80, 0x00] ++
  bytesFrom 0x3048 [0xFC, 0xFF, 0x40, 0x00] ++
  bytesFrom 0x4000 [0x02, 0x02, 0x00, 0x00, 0x04, 0x00, 0x00, 0x00, 0x0A, 0x00, 0x00, 0x00,
    0x00, 0x00, 0x00, 0x00, 0x30, 0x75, 0x00, 0x00, 0x01, 0x00, 0x00, 0x00, 0x00, 0x00, 0x00, 0x00] ++
  bytesFrom 0x401C [0x60, 0xEA, 0x00, 0x00, 0x70, 0x11, 0x01, 0x00, 0x02, 0x00, 0x00, 0x00, 0xE0, 0xAB, 0x00, 0x00]

/-- The twelve samples as section 2.8 registers them. -/
def pcm : SmpEntry := { valid := true, base := 0x2000, length := 12, rate := 48000, root := 44000 }

/-- The small machine right after reset, with the tables, and sample id 2 and wavetable id 1 registered. -/
def t0 : State :=
  { State.resetWith tiny tables with
    sreg := [SmpEntry.reset, SmpEntry.reset, pcm, SmpEntry.reset],
    wreg := (State.resetWith tiny tables).wreg.set 1 { valid := true, base := 0x100, size := 3, depth := 16 } }

/-- The small machine with voice 0 replaced. -/
def withVoice (x : Voice) : State := { t0 with voices := [x, Voice.reset] }

/-- A sounding voice in an envelope state at a value, with the rates of section 2.5. -/
def env (st : EnvState) (value : BitVec 29) : Voice :=
  { Voice.reset with
    active := true, envState := st, envValue := value, volume := 200, freq := 44000, phaseInc := 39370533,
    rateAttack := 1000, rateDecay := 500, sustain := 134217728, rateRelease := 2000 }

/-- A voice bound to the tracker instrument of program P8, in an envelope state, stage and tick. -/
def trk (st : EnvState) (stage : BitVec 5) (tick : Word) : Voice :=
  { env st 268435456 with trkAddr := 0x3000, trkStage := stage, trkTick := tick }

/-- A sample voice on id 2 with bounds 4 and 10, in a loop mode. -/
def smp (mode : LoopMode) : Voice :=
  { env .sustain 268435456 with
    kind := .sample, volume := 255, smpId := 2, loopMode := mode, loopStart := 4, loopEnd := 10 }

/-- The next state of an outcome, if it is one. -/
def nextOf : Host.Outcome State Fault Refusal → Option State
  | .next t => some t
  | .fault _ => none
  | .refused _ => none

/-- Voice 0 after a command. -/
def voice0 (i : Instr) (s : State) : Option Voice := (nextOf (exec i s)).bind fun t => t.voices[0]?

/-- The response stream after a command. -/
def answer (i : Instr) (s : State) : Option (List Word) := (nextOf (exec i s)).map fun t => t.resp

/-- The output stream after a command. -/
def heard (i : Instr) (s : State) : Option (List Int) := (nextOf (exec i s)).map fun t => t.out.map BitVec.toInt

/-! ## One step of every command -/

theorem test_nop : nextOf (exec .nop t0) = some t0 := by decide +kernel

/-- R291; Inc(44000) from section 2.2. -/
theorem test_noteOn : (voice0 (.noteOn 0 200 44000) t0).map (fun x => (x.active, x.envState, x.phaseInc, x.volume)) =
    some (true, .attack, 39370533, 200) := by decide +kernel

/-- Program P9's first NOTE_ON: zone 1, root override 44000, bounds 4..10, PingPong. -/
theorem test_noteOn_zone : (voice0 (.noteOn 0 255 66000) (withVoice { Voice.reset with smpInstAddr := 0x4000 })).map
      (fun x => (x.kind, x.smpId, x.rootOverride, x.loopMode, x.loopStart, x.loopEnd)) =
    some (.sample, 2, 44000, .pingPong, 4, 10) := by decide +kernel

theorem test_noteOff : (voice0 (.noteOff 0) (withVoice (env .sustain 500))).map (fun x => (x.envState, x.envValue)) =
    some (.release, 500) := by decide +kernel

/-- Program P8 after NOTE_OFF: the release array's Triangle at volume 64. -/
theorem test_noteOff_tracker : (voice0 (.noteOff 0) (withVoice (trk .sustain 0 0))).map
      (fun x => (x.envState, x.trkCur.toInt, x.trkNext.toInt, x.trkVol)) = some (.release, -4, -4, 64) := by
  decide +kernel

/-- R293; Inc(26163) from section 2.2. -/
theorem test_setFreq : (voice0 (.setFreq 0 26163) (withVoice { Voice.reset with glideActive := true })).map
      (fun x => (x.freq, x.phaseInc, x.glideActive)) = some (26163, 23410256, false) := by decide +kernel

/-- Inc(FS) wraps to 0 (section 2.2). -/
theorem test_setFreq_wraps : (voice0 (.setFreq 0 4800000) t0).map (fun x => (x.freq, x.phaseInc)) =
    some (4800000, 0) := by decide +kernel

theorem test_setVol : (voice0 (.setVol 0 128) t0).map (fun x => x.volume) = some 128 := by decide +kernel

theorem test_setWave : (voice0 (.setWave 0 3) t0).map (fun x => (x.kind, x.shape)) = some (.basic, .triangle) ∧
    (voice0 (.setWave 0 4) t0).map (fun x => (x.kind, x.shape)) = some (.noise, .saw) := by decide +kernel

/-- The whole 16-bit code is examined (R295): 256 is no waveform. -/
theorem test_setWave_ignored : (voice0 (.setWave 0 256) t0) = some Voice.reset := by decide +kernel

theorem test_setPw : (voice0 (.setPw 0 0x40000000) t0).map (fun x => x.pulseWidth) = some 0x40000000 := by
  decide +kernel

/-- R297: a sustain level above ENV_MAX is clamped. -/
theorem test_setEnv : (voice0 (.setEnv 0 1 2 0xFFFFFFFF 3) t0).map
      (fun x => (x.rateAttack, x.rateDecay, x.sustain, x.rateRelease)) = some (1, 2, 268435456, 3) := by decide +kernel

theorem test_setVib : (voice0 (.setVib 0 7 9) t0).map (fun x => (x.vibRate, x.vibDepth)) = some (7, 9) := by
  decide +kernel

theorem test_setTrem : (voice0 (.setTrem 0 255 9) t0).map (fun x => (x.tremRate, x.tremDepth)) = some (9, 255) := by
  decide +kernel

theorem test_setWt : (voice0 (.setWt 0 64) t0).map (fun x => (x.kind, x.wtId)) = some (.wavetable, 64) := by
  decide +kernel

theorem test_regWt : (nextOf (exec (.regWt 4 7 0x1000 100) t0)).bind (fun t => t.wreg[7]?) =
    some { valid := true, base := 0x1000, size := 100, depth := 4 } := by decide +kernel

/-- Depth 3, and id NW, register nothing (program P6). -/
theorem test_regWt_ignored : nextOf (exec (.regWt 3 0 0x1000 100) t0) = some t0 ∧
    nextOf (exec (.regWt 16 8 0x1000 100) t0) = some t0 := by decide +kernel

/-- Program P8 binds an Idle voice: the binding is written, nothing is loaded. -/
theorem test_bindTrk : (voice0 (.bindTrk 0 0x3000) (withVoice { Voice.reset with smpInstAddr := 5 })).map
      (fun x => (x.trkAddr, x.smpInstAddr, x.envState, x.trkCur)) = some (0x3000, 0, .idle, 0) := by decide +kernel

theorem test_bindSmp : (voice0 (.bindSmp 0 0x4000) (withVoice (trk .sustain 0 0))).map
      (fun x => (x.trkAddr, x.smpInstAddr)) = some (0, 0x4000) := by decide +kernel

theorem test_unbind : (voice0 (.unbind 0) (withVoice (trk .sustain 0 0))).map (fun x => (x.trkAddr, x.smpInstAddr)) =
    some (0, 0) := by decide +kernel

/-- R305: the position of the voice is left alone and the override cleared. -/
theorem test_setSmp :
    voice0 (.setSmp 0 3 .reverse 200 800) (withVoice { Voice.reset with smpPos := 77, rootOverride := 5 }) =
      some { Voice.reset with
        kind := .sample, smpId := 3, loopMode := .reverse, loopStart := 200, loopEnd := 800, smpPos := 77 } := by
  decide +kernel

/-- Program P4 after SET_ARP. -/
theorem test_setArp : (voice0 (.setArp 0 10 [44000, 55000, 66000]) t0).map
      (fun x => (x.arpLen, x.arpIndex, x.arpCounter, x.phaseInc, x.arpNotes)) =
    some (3, 0, 1, 39370533, [44000, 55000, 66000, 0, 0, 0, 0, 0]) := by decide +kernel

/-- Nine notes are too many (program P6). -/
theorem test_setArp_ignored : nextOf (exec (.setArp 0 1 [2, 3, 4, 5, 6, 7, 8, 9, 10]) t0) = some t0 := by
  decide +kernel

theorem test_detArp : (voice0 (.detArp 0) (withVoice { Voice.reset with arpLen := 3, arpIndex := 1 })).map
      (fun x => (x.arpLen, x.arpIndex)) = some (0, 1) := by decide +kernel

/-- Section 2.10: a falling glide's quotient is truncated toward zero and its remainder is negative. -/
theorem test_glide : (voice0 (.glide 0 88000 55000 30) t0).map
      (fun x => (x.glideDelta.toInt, x.glideRem.toInt, x.glideLeft, x.phaseInc, x.freq)) =
    some (-9842633, -2, 3, 78741067, 88000) := by decide +kernel

theorem test_glideTo : (voice0 (.glideTo 0 55000 30) (withVoice (env .sustain 5))).map
      (fun x => (x.glideDelta.toInt, x.glideRem.toInt, x.glideTarget, x.freq)) =
    some (3280877, 2, 49213166, 44000) := by decide +kernel

/-- Section 2.10: a zero duration jumps at the command. -/
theorem test_glideTo_zero : (voice0 (.glideTo 0 66000 0) (withVoice (env .sustain 5))).map
      (fun x => (x.glideActive, x.phaseInc, x.freq)) = some (false, 59055800, 66000) := by decide +kernel

/-- Section 2.9: `fdiv(48000, 7)` and the clamp at 96000. -/
theorem test_setRate : (nextOf (exec (.setRate 7) t0)).map (fun t => (t.ctrlRate, t.ctrlInterval)) = some (7, 6857) ∧
    (nextOf (exec (.setRate 96000) t0)).map (fun t => (t.ctrlRate, t.ctrlInterval)) = some (96000, 1) := by
  decide +kernel

theorem test_setMvol : (nextOf (exec (.setMvol 128) t0)).map (fun t => t.master) = some 128 := by decide +kernel

/-- The accessors at the envelope value 100000000 of section 2.12: volume 200, Gain 199. -/
theorem test_getFreq : answer (.getFreq 0) (withVoice (env .sustain 100000000)) = some [44000] := by decide +kernel
theorem test_getVol : answer (.getVol 0) (withVoice (env .sustain 100000000)) = some [200] := by decide +kernel
theorem test_getEnv : answer (.getEnv 0) (withVoice (env .sustain 100000000)) = some [100000000] := by decide +kernel
theorem test_getEnv8 : answer (.getEnv8 0) (withVoice (env .sustain 100000000)) = some [95] := by decide +kernel
theorem test_getLvl : answer (.getLvl 0) (withVoice (env .sustain 100000000)) = some [18905] := by decide +kernel
theorem test_getLvl8 : answer (.getLvl8 0) (withVoice (env .sustain 100000000)) = some [73] := by decide +kernel

/-- Section 2.12 at ENV_MAX: GET_ENV8 is capped at 255; program P8 (Gain 49) for a tracker-bound voice; R97. -/
theorem test_getEnv8_top : answer (.getEnv8 0) (withVoice (env .sustain 268435456)) = some [255] := by decide +kernel
theorem test_getLvl_tracker :
    answer (.getLvl 0) (withVoice { trk .release 0 0 with trkVol := 64 }) = some [49 * 256] := by decide +kernel
theorem test_getVol_outOfRange : answer (.getVol 2) t0 = some [0] := by decide +kernel

theorem test_regSmp : (nextOf (exec (.regSmp 3 8192 1000 48000 44000) t0)).bind (fun t => t.sreg[3]?) =
    some { valid := true, base := 0x2000, length := 1000, rate := 48000, root := 44000 } := by decide +kernel

/-- R362: the first block of a saw at 44000 cHz with the reset envelope, volume 255. -/
theorem test_render : heard (.render 4 1 false)
      (withVoice { Voice.reset with active := true, envState := .attack, volume := 255, phaseInc := 39370533 }) =
    some [0, 592, 1186, 1780] := by decide +kernel

/-- Section 2.11: n = 0, n above MAXBLK and width code 3 are ignored whole. -/
theorem test_render_ignored : nextOf (exec (.render 0 1 false) t0) = some t0 ∧
    nextOf (exec (.render 9 1 false) t0) = some t0 ∧ nextOf (exec (.render 8 3 true) t0) = some t0 := by
  decide +kernel

/-- `step` runs the words `withFetchWord` places: NOTE_ON 0, 200, 44000. -/
theorem test_step_withFetchWord :
    ((nextOf (step (t0.withFetchWord 64 0x0000ABE000C80001))).bind fun t => t.voices[0]?).map
      (fun x => (x.active, x.phaseInc, x.volume)) = some (true, 39370533, 200) := by decide +kernel

/-- Two words of a five-word command wait and nothing changes (R91, R355). -/
theorem test_step_waits : nextOf (step (t0.send [0x00000007, 5])) = some (t0.send [0x00000007, 5]) := by decide +kernel

/-! ## The procedures behind RENDER -/

/-- Section 2.2. -/
theorem test_inc : [1, 48000, 4799999, 4800001, 4294967295].map (fun f : Word => inc 48000 f) =
      [894, 42949672, 4294966401, 894, 3370918504] ∧
    [894, 895, 39370533, 39370534, 4294967295].map (fun i : Word => freqFromInc 48000 i) =
      [0, 1, 43999, 44000, 4799999] := by decide +kernel

/-- Section 2.2: Saw, Sine, Pulse, Tri. -/
theorem test_waveforms : [0x12345678, 0x3FFFFFFF, 0x80000000, 0x80100000, 0xC0000000].map
      (fun p : Word => [Shape.saw, .sine, .pulse, .triangle].map fun k => basicSample t0.ctx k p 0x80000000) =
    [[4660, 14146, 32767, -23447], [16383, 32767, 32767, -1], [-32768, 0, -32767, 32767],
      [-32752, -51, -32767, 32735], [-16384, -32768, -32767, -1]] := by decide +kernel

/-- Section 2.2: sine ROM spot values. -/
theorem test_sineRom : [1, 2, 512, 1023, 1024, 1025, 2047, 2048, 2049, 3072, 4095].map (romWord t0.ctx) =
    [3294197, 6588387, 1518500249, 2147481120, 2147483647, 2147481120, 3294197, 0, -3294197, -2147483647,
      -3294197] := by decide +kernel

/-- Section 2.3: the index, and the elements by depth and nibble order. -/
theorem test_wavetable : [0x028F5C28, 0x028F5C29, 0xFFFFFFFF].map (fun p : Word => wtIndex p 100) = [0, 1, 99] ∧
    [0, 1, 2].map (wtElem t0.ctx { valid := true, base := 0x100, size := 3, depth := 16 }) = [-32768, 32767, -32465] ∧
    [0, 1, 2, 3].map (wtElem t0.ctx { valid := true, base := 0x100, size := 6, depth := 8 }) =
      [-32768, 0, 32512, -256] ∧
    [2, 3, 8, 9].map (wtElem t0.ctx { valid := true, base := 0x100, size := 12, depth := 4 }) =
      [-32768, 0, 28672, -24576] ∧
    [2, 3, 8, 9].map (wtElem { t0.ctx with nibbleOrder := .highFirst }
      { valid := true, base := 0x100, size := 12, depth := 4 }) = [0, -32768, -24576, 28672] := by decide +kernel

/-- Section 2.4: the floor shift of the mixing formula. -/
theorem test_contribution : [contribution 32767 254 268435455, contribution (-1) 1 1048576,
      contribution 1000 199 100000000, contribution (-1000) 199 100000000, contribution 12345 254 1048575] =
    [32384, -1, 288, -289, 0] := by decide +kernel

/-- What section 2.5 tabulates of a block: start, step, state after, value after, active. -/
def blockRow (n : Nat) (x : Voice) : Int × Int × EnvState × Nat × Bool :=
  let r := envBlock n x
  (r.1.start, r.1.step, r.2.envState, r.2.envValue.toNat, r.2.active)

/-- Section 2.5, Attack: the crossing at 36 samples, the exact top, the R113 example, the infinite rate. -/
theorem test_env_attack :
    blockRow 256 (env .attack 268400000) = (268400000, -291, .decay, 268325456, true) ∧
    blockRow 256 { env .attack 0 with rateAttack := 1048576 } = (0, 1048576, .decay, 268435456, true) ∧
    blockRow 100 { env .attack 200000000 with rateAttack := 1000000, rateDecay := 500000 } =
      (200000000, 529354, .decay, 252935456, true) ∧
    blockRow 256 { env .attack 0 with rateAttack := 268435456 } = (268435456, 0, .decay, 268435456, true) := by
  decide +kernel

/-- Section 2.5, Decay: from above, from below, the infinite rate. -/
theorem test_env_decay :
    blockRow 256 (env .decay 134218728) = (134218728, -3, .sustain, 134217728, true) ∧
    blockRow 256 (env .decay 134216728) = (134216728, 3, .sustain, 134217728, true) ∧
    blockRow 256 (env .decay 1000) = (1000, 500, .decay, 129000, true) ∧
    blockRow 1 { env .decay 268435456 with rateDecay := 268435456 } =
      (134217728, 0, .sustain, 134217728, true) := by decide +kernel

/-- Section 2.5, Release, Idle and the pinned envelope of a tracker-bound voice. -/
theorem test_env_release : [blockRow 256 (env .release 500000), blockRow 256 (env .release 512000),
      blockRow 7 { env .release 100 with rateRelease := 3 }, blockRow 256 (env .idle 777),
      blockRow 256 { env .release 5000 with trkAddr := 1 }] =
    [(500000, -1953, .idle, 0, false), (512000, -2000, .idle, 0, false), (100, -3, .release, 79, true),
      (0, 0, .idle, 0, true), (268435456, 0, .release, 268435456, true)] := by decide +kernel

/-- Section 2.6, run 1, ticks 1, 4 and 9, and TicksFromMs. -/
theorem test_lfo : [0x00000000, 0x30000000, 0x80000000].map (fun p : Word =>
      ((vibratoTick t0.ctx { Voice.reset with vibPhase := p, vibRate := 0x10000000, vibDepth := 100000 }).vibOffset,
        (tremoloTick t0.ctx { Voice.reset with tremPhase := p, tremRate := 0x10000000, tremDepth := 255 }).tremGain)) =
      [(38262, 79), (99993, 1), (4294929026, 177)] ∧
    [ticksFromMs 333 11, ticksFromMs 100 1001, ticksFromMs 1000 4294967295, ticksFromMs 96000 0] =
      [4, 101, 4294967295, 0] := by decide +kernel

/-- Section 2.7: the generator from seed 0. -/
theorem test_noise : [noiseNext 0, noiseNext 1013904223, noiseNext 1196435762] =
      [1013904223, 1196435762, 3519870697] ∧
    [noiseSample 1013904223, noiseSample 3519870697] = [15470, -11828] := by decide +kernel

/-- Section 2.8, Forward 4..10 at 110000 cHz and PingPong of program P9 at the turn: fetched samples, then the head. -/
theorem test_sample_forward :
    ((renderSample t0.ctx { start := 268435456, step := 0 } { smp .forward with freq := 110000 }
      (List.replicate 8 0)).2.smpPos) = 425984 := by decide +kernel

theorem test_sample_pingPong :
    let x := { smp .pingPong with freq := 66000 }
    sampleStep x 12 98304 { pos := 9 * 65536, dir := .forward, ended := false } =
      { pos := 9 * 65536, dir := .backward, ended := false } ∧
    sampleStep x 12 98304 { pos := 294912, dir := .backward, ended := false } =
      { pos := 4 * 65536, dir := .forward, ended := false } := by decide +kernel

/-- Section 2.8, Off: eight samples at twice the rate end the voice after six. -/
theorem test_sample_off :
    let r := renderSample t0.ctx { start := 268435456, step := 0 } { smp .off with freq := 88000 } (List.replicate 8 0)
    r.1.map BitVec.toInt = [0, 1984, 3968, 5953, 7937, 9921, 0, 0] ∧
    (r.2.smpPos, r.2.smpFinished, r.2.active, r.2.envState) = (12 * 65536, true, false, .idle) := by decide +kernel

/-- A voice in the middle of a glide over three ticks to 49213166. -/
def gliding (delta rem acc : Int) (left phaseInc : Word) : Voice :=
  { Voice.reset with
    glideActive := true, glideDelta := BitVec.ofInt 34 delta, glideRem := BitVec.ofInt 34 rem,
    glideRemAcc := BitVec.ofInt 34 acc, glideTicks := 3, glideLeft := left, phaseInc := phaseInc,
    glideTarget := 49213166 }

/-- Section 2.10: a tick with a carry of the rising and of the falling glide, and the last tick. -/
theorem test_glideTick : [gliding 3280877 2 2 2 42651410, gliding (-9842633) (-2) (-2) 2 68898434,
      gliding 3280877 2 1 1 45932288].map (fun x =>
      let y := glideTick t0.ctx x
      (y.phaseInc, y.freq, y.glideRemAcc.toInt, y.glideActive)) =
    [(45932288, 51333, 1, true), (59055800, 65999, -1, true), (49213166, 54999, 0, false)] := by decide +kernel

/-- Program P8: the first tick of the attack, the tick into the second stage, the end of the release. -/
theorem test_trackerTick : [trk .attack 0 0, trk .attack 0 1, trk .release 0 1].map (fun x =>
      let y := trackerTick t0.ctx x
      (y.envState, y.trkStage, y.trkTick, [y.trkCur.toInt, y.trkNext.toInt, y.trkMorph.toNat, y.trkVol.toNat])) =
    [(.attack, 0, 1, [-1, -3, 127, 255]), (.attack, 1, 0, [-3, -2, 0, 128]), (.idle, 0, 0, [0, 0, 0, 0])] := by
  decide +kernel

/-- Section 2.11: W16, W8, W32, W16C, W8C, W32C. -/
theorem test_quantiser : [((100000 : Int), (128 : Byte)), (-100000, 255), (97533, 64), (-1, 1), (-12345, 255)].map
      (fun p => [quantize p.2 .w16 false p.1, quantize p.2 .w8 false p.1, quantize p.2 .w32 false p.1,
        quantize p.2 .w16 true p.1, quantize p.2 .w8 true p.1, quantize p.2 .w32 true p.1]) =
    [[32767, 127, 2147418112, 32512, 127, 2130706432], [-32768, -128, -2147483648, -32768, -128, -2147483648],
      [24383, 95, 1597964288, 24320, 95, 1593835520], [-1, -1, -65536, -256, -1, -16777216],
      [-12297, -49, -805896192, -12544, -49, -822083584]] := by decide +kernel

/-- Section 2.9: counter 24, interval 1, three samples: 27 ticks; and the second block of 256. -/
theorem test_scheduler : (runScheduler 3 { t0 with ctrlCounter := 24, ctrlInterval := 1 }).ctrlCounter = 0 ∧
    (runScheduler 256 { t0 with ctrlCounter := 256 }).ctrlCounter = 32 := by decide +kernel

/-! ## Witnesses: for every obligation with hypotheses, a state and operands that meet them, clause by clause at the
bounds of each range. -/

/-- `step` answers a next state. -/
abbrev Steps (s : State) : Prop := ∃ t, step s = .next t

/-- A command answers a next state. -/
abbrev Runs (i : Instr) (s : State) : Prop := ∃ t, exec i s = .next t

theorem witness_DecodeInvertsEncode : wellFormed (.setArp 255 0xFFFFFFFF (List.replicate 255 0xFFFFFFFF)) = true ∧
    wellFormed (.setArp 0 0 []) = true ∧ wellFormed (.render 65535 3 true) = true := by decide +kernel

/-- SET_ARP with 8 notes: one word short, and with all its nine words; a NOP and the longest count. -/
theorem witness_LengthRule :
    ((t0.send [0x00080010, 1, 2, 3, 4, 5, 6, 7, 8]).cmd = 0x00080010 :: [1, 2, 3, 4, 5, 6, 7, 8] ∧
      [1, 2, 3, 4, 5, 6, 7, 8].length < operandCount 0x00080010) ∧
    ((t0.send [0x00080010, 1, 2, 3, 4, 5, 6, 7, 8, 9]).cmd = 0x00080010 :: [1, 2, 3, 4, 5, 6, 7, 8, 9] ∧
      operandCount 0x00080010 ≤ [1, 2, 3, 4, 5, 6, 7, 8, 9].length ∧
      Steps (t0.send [0x00080010, 1, 2, 3, 4, 5, 6, 7, 8, 9])) ∧
    operandCount 0 ≤ ([] : List Word).length ∧ (List.replicate 255 (0 : Word)).length < operandCount 0x00FF0010 ∧
    operandCount 0x00FF0010 ≤ (List.replicate 256 (0 : Word)).length :=
  ⟨⟨rfl, by decide⟩, ⟨rfl, by decide, _, rfl⟩, by decide, by decide +kernel, by decide +kernel⟩

theorem witness_IgnoredBitsHaveNoEffect :
    ((0xFFFFFF00 : Word).toNat % 256 = (0 : Word).toNat % 256 ∧ (0 : Word).toNat % 256 ∈ [0x00, 0x14]) ∧
    ((0xFFFFFF1E : Word).toNat % 256 = (0x1E : Word).toNat % 256 ∧ 0x1E ≤ (0x1E : Word).toNat % 256) ∧
    (headerA 0xFFFFFF02 = headerA 0x0000FF02 ∧ (0xFFFFFF02 : Word).toNat % 256 ∈ [0x02, 0x03]) ∧
    (headerA 0xFFC80201 = headerA 0x00C80201 ∧ headerImmLow 0xFFC80201 = headerImmLow 0x00C80201 ∧
      (0xFFC80201 : Word).toNat % 256 = 0x01) ∧
    (headerImmLow 0xFF80FF15 = headerImmLow 0x00800015 ∧ (0xFF80FF15 : Word).toNat % 256 = 0x15) ∧
    (headerImm 0x0003FF1C = headerImm 0x0003001C ∧ (0x0003FF1C : Word).toNat % 256 = 0x1C) ∧
    (headerImm 0x0008F91D = headerImm 0x0008011D ∧
      (0x0008F91D : Word).extractLsb' 8 3 = (0x0008011D : Word).extractLsb' 8 3) ∧
    ((0x0003000F : Word).toNat % 256 = 0x0F ∧ (0xFFFFFFFF : Word).toNat % 4 = (3 : Word).toNat % 4) := by decide

theorem witness_StepRunsDecodedCommand :
    decode (t0.send [0x00C80001, 0x0000ABE0, 0x00000002]).cmd = .instr (.noteOn 0 200 44000) [2] := by decide

theorem witness_NopAndUndefinedOpcodes : (t0.send [0x0000001E, 5]).cmd = 0x1E :: [5] ∧
    0x1E ≤ (0x0000001E : Word).toNat % 256 ∧ (t0.send [0x000000FF]).cmd = 0xFF :: [] ∧
    0x1E ≤ (0x000000FF : Word).toNat % 256 := by decide

/-- A voice in the middle of everything that can go on at once: a release, an arpeggio and a glide. -/
def busy : Voice :=
  { gliding 3280877 2 2 2 42651410 with
    active := true, envState := .release, envValue := 268435456, sustain := 268435456, arpLen := 8, arpIndex := 7,
    arpCounter := 1, trkAddr := 0x3000, trkStage := 16, trkMorph := 254, tremGain := 1 }

theorem busy_inv : busy.Inv := by constructor <;> decide

theorem busy_state_inv : (withVoice busy).Inv where
  config := by decide +kernel
  rate := by decide
  interval := by decide
  depth := by decide
  memory := by decide
  voices := by
    intro x hx
    obtain rfl | hx := List.mem_cons.1 hx
    · exact busy_inv
    · exact List.mem_singleton.1 hx ▸ Voice.reset_inv

theorem witness_StepKeepsInv : ((withVoice busy).send [0x0008011D]).Inv ∧
    Steps ((withVoice busy).send [0x0008011D]) := ⟨{ busy_state_inv with }, _, rfl⟩

/-- The parameters at both ends of their ranges (R6), and a table memory with its lowest and its highest byte. -/
theorem witness_ResetMeetsInv : tiny.Valid ∧
    { tiny with nv := 1, fs := 1, maxBlk := 1, ns := 1, nw := 1 }.Valid ∧
    { tiny with nv := 256, fs := 42949672, maxBlk := 65535, ns := 65535, nw := 32768 }.Valid ∧
    Memory.wf [(0, 1), (4294967295, 0)] = true := by decide +kernel

theorem witness_OnlyGetAnswers : (Runs (.getVol 0) t0 ∧ (Instr.getVol 0).isGet = true) ∧
    (Runs (.setVol 0 5) t0 ∧ (Instr.setVol 0 5).isGet = false) := ⟨⟨⟨_, rfl⟩, rfl⟩, ⟨_, rfl⟩, rfl⟩

theorem witness_RenderEmitsSamples : (1 ≤ (1 : Half).toNat ∧ (1 : Half).toNat ≤ t0.mix.length) ∧
    (1 ≤ (8 : Half).toNat ∧ (8 : Half).toNat ≤ t0.mix.length) ∧ (2 : BitVec 2) ≠ 3 := by decide

theorem witness_GlobalsHaveOneWriter : Runs (.setMvol 7) t0 ∧ (∀ hz, Instr.setMvol 7 ≠ .setRate hz) ∧
    (∀ id base length rate root, Instr.setMvol 7 ≠ .regSmp id base length rate root) ∧
    (∀ depth id base size, Instr.setMvol 7 ≠ .regWt depth id base size) ∧
    (∀ n width crush, Instr.setMvol 7 ≠ .render n width crush) ∧ (Instr.setMvol 7).voiceOperand = none ∧
    Runs (.setRate 7) t0 ∧ ∀ volume, Instr.setRate 7 ≠ .setMvol volume :=
  ⟨⟨_, rfl⟩, nofun, nofun, nofun, nofun, rfl, ⟨_, rfl⟩, nofun⟩

theorem witness_VoiceCommandKeepsOthers : (Instr.setVol 1 9).voiceOperand = some 1 ∧ Runs (.setVol 1 9) t0 ∧
    0 ≠ (1 : Byte).toNat := ⟨rfl, ⟨_, rfl⟩, by decide⟩

theorem witness_OutOfRangeVoiceIgnored : t0.voices.length ≤ (2 : Byte).toNat ∧
    ((Instr.setVol 2 9).voiceOperand = some 2 ∧ (Instr.setVol 2 9).isGet = false) ∧
    ((Instr.getLvl8 2).voiceOperand = some 2 ∧ (Instr.getLvl8 2).isGet = true) := by decide

/-- Two machines that agree on voice 0 and differ in voice 1, in the mix buffer and in the output. -/
theorem witness_VoicesDoNotInteract :
    let s := withVoice busy
    let s' := { s with voices := [busy, env .sustain 5], mix := List.replicate 8 77, out := [1] }
    s.ctx = s'.ctx ∧ s.ctrlInterval = s'.ctrlInterval ∧ s.ctrlCounter = s'.ctrlCounter ∧
      s.mix.length = s'.mix.length ∧ s.voices.length = s'.voices.length ∧ s.voices[0]? = s'.voices[0]? ∧
      Runs (.render 8 1 false) s ∧ Runs (.render 8 1 false) s' :=
  ⟨rfl, rfl, rfl, rfl, rfl, rfl, ⟨_, rfl⟩, _, rfl⟩

theorem witness_NoteOnResult : t0.voices[(0 : Byte).toNat]? = some Voice.reset ∧
    t0.voices[(1 : Byte).toNat]? = some Voice.reset := by decide

theorem witness_NoteOnFrame : t0.voices[(0 : Byte).toNat]? = some Voice.reset ∧
    (∃ t, exec (.noteOn 0 200 44000) t0 = .next t ∧ ∃ y, t.voices[(0 : Byte).toNat]? = some y) ∧
    Voice.reset.smpInstAddr = 0 ∧ Voice.reset.kind ≠ .sample ∧ Voice.reset.trkAddr = 0 :=
  ⟨by decide, ⟨_, rfl, _, rfl⟩, by decide, by decide, by decide⟩

theorem witness_NoteOffResult :
    (t0.voices[(0 : Byte).toNat]? = some Voice.reset ∧ Voice.reset.active = false) ∧
    ((withVoice (env .attack 0)).voices[(0 : Byte).toNat]? = some (env .attack 0) ∧ (env .attack 0).active = true ∧
      (env .attack 0).trkAddr = 0) ∧
    ((withVoice (trk .attack 0 0)).voices[(0 : Byte).toNat]? = some (trk .attack 0 0) ∧
      (trk .attack 0 0).active = true ∧ (trk .attack 0 0).trkAddr ≠ 0) := by decide

theorem witness_VolumeIsIdempotent : t0.voices[(1 : Byte).toNat]? = some Voice.reset ∧
    (∀ w f, Instr.render 8 0 true ≠ .noteOn 1 w f) ∧ (∀ w, Instr.render 8 0 true ≠ .setVol 1 w) ∧
    Runs (.render 8 0 true) t0 := ⟨by decide, nofun, nofun, _, rfl⟩

theorem witness_SetWaveResult : t0.voices[(0 : Byte).toNat]? = some Voice.reset ∧ (0 : Half).toNat = 0 ∧
    (1 : Half).toNat = 1 ∧ (2 : Half).toNat = 2 ∧ (3 : Half).toNat = 3 ∧ (4 : Half).toNat = 4 ∧
    4 < (5 : Half).toNat ∧ 4 < (65535 : Half).toNat := by decide

theorem witness_ParameterResults : t0.voices[(1 : Byte).toNat]? = some Voice.reset := by decide

theorem witness_SetEnvResult : t0.voices[(1 : Byte).toNat]? = some Voice.reset := by decide

theorem witness_RegistrationResults : (7 : Half).toNat < t0.wreg.length ∧ t0.wreg.length ≤ (8 : Half).toNat ∧
    ((3 : Byte) ≠ 4 ∧ (3 : Byte) ≠ 8 ∧ (3 : Byte) ≠ 16) ∧ (3 : Half).toNat < t0.sreg.length ∧
    t0.sreg.length ≤ (4 : Half).toNat := by decide

theorem witness_BindingResults : t0.voices[(1 : Byte).toNat]? = some Voice.reset := by decide

theorem witness_ArpeggioCommandResults : t0.voices[(1 : Byte).toNat]? = some Voice.reset ∧
    ([] : List Word).length = 0 ∧ 1 ≤ ([5] : List Word).length ∧ (List.replicate 8 (5 : Word)).length ≤ 8 ∧
    8 < (List.replicate 9 (5 : Word)).length := by decide

/-- A glide of 0 ticks and one of 3, by either command. -/
theorem witness_GlideSetupResult : t0.voices[(0 : Byte).toNat]? = some Voice.reset ∧
    ticksFromMs t0.ctrlRate (0 : Word).toNat = 0 ∧ ticksFromMs t0.ctrlRate (30 : Word).toNat = 3 := by decide

/-- A tick without a correction, one with each sign of it, the last one, and an inactive glide; glides of 1 and 3
ticks. -/
theorem witness_GlideArrivesExactly : Voice.reset.glideActive = false ∧
    (∀ x ∈ [gliding 3280877 2 0 3 39370533, gliding 3280877 2 2 2 42651410, gliding (-9842633) (-2) (-2) 2 68898434,
      gliding 3280877 2 1 1 45932288], x.glideActive = true) ∧
    [(gliding 3280877 2 0 3 0), (gliding 3280877 2 2 2 0), (gliding (-9842633) (-2) (-2) 2 0)].map (fun x =>
      let sum := x.glideRemAcc.toInt + x.glideRem.toInt
      if sum.natAbs < x.glideTicks.toNat then ((0 : Int), sum)
      else if 0 < sum then (1, sum - (x.glideTicks.toNat : Int)) else (-1, sum + (x.glideTicks.toNat : Int))) =
      [(0, 2), (1, 1), (-1, -1)] ∧ (0 : Word) + 1 = (gliding 3280877 2 1 1 45932288).glideLeft ∧
    ticksFromMs t0.ctx.ctrlRate (1 : Word).toNat = 1 ∧ ticksFromMs t0.ctx.ctrlRate (30 : Word).toNat = 3 := by decide

/-- The largest sample rate R6 allows, the frequencies just below it and at it; durations at the saturation bound. -/
theorem witness_UnitConversions : 42949672 * 100 < 4294967296 ∧ (4294967199 : Word).toNat < 42949672 * 100 ∧
    1 ≤ (1 : Word).toNat ∧ 4294967295000 * (1 : Word).toNat ≤ 1000 * 4294967295 ∧
    1000 * 4294967295 < 4294967295001 * (1 : Word).toNat := by decide

theorem witness_ArpTickResult : Voice.reset.arpLen = 0 ∧ busy.arpLen ≠ 0 ∧ busy.arpLen.toNat ≤ 8 ∧
    busy.arpNotes.length = 8 ∧ busy.arpCounter.toNat = 1 ∧
    2 ≤ ({ busy with arpCounter := 2 } : Voice).arpCounter.toNat := by decide

theorem witness_GlobalSettingResults : t0.fs < 4294967296 ∧ (0 : Word) = 0 ∧ (1 : Word) ≠ 0 := by decide

theorem witness_AccessorResults :
    (withVoice (trk .attack 0 0)).voices[(0 : Byte).toNat]? = some (trk .attack 0 0) ∧
    (trk .attack 0 0).trkAddr ≠ 0 ∧ t0.voices[(1 : Byte).toNat]? = some Voice.reset ∧
    Voice.reset.trkAddr = 0 := by decide

theorem witness_RenderResult : ((0 : Half) = 0 ∧ t0.mix.length < (9 : Half).toNat ∧ (3 : BitVec 2) = 3) ∧
    1 ≤ (1 : Half).toNat ∧ (8 : Half).toNat ≤ t0.mix.length ∧
    ((0 : BitVec 2) = 0 ∧ OutWidth.w8 = .w8) ∧ ((1 : BitVec 2) = 1 ∧ OutWidth.w16 = .w16) ∧
    ((2 : BitVec 2) = 2 ∧ OutWidth.w32 = .w32) := by decide

theorem witness_RenderFrame :
    Runs (.render 8 1 false) (withVoice busy) ∧ Runs (.render 9 1 false) (withVoice busy) ∧
    (withVoice busy).voices[0]? = some busy := ⟨⟨_, rfl⟩, ⟨_, rfl⟩, rfl⟩

theorem witness_InactiveVoicesAreFrozenAndSilent : Runs (.render 8 1 false) t0 ∧
    (t0.voices[0]? = some Voice.reset ∧ Voice.reset.active = false) ∧ (∀ x ∈ t0.voices, x.active = false) ∧
    1 ≤ (8 : Half).toNat ∧ (8 : Half).toNat ≤ t0.mix.length ∧ (1 : BitVec 2) ≠ 3 :=
  ⟨⟨_, rfl⟩, by decide, by decide, by decide, by decide, by decide⟩

theorem witness_SchedulerRunsExactTicks : 1 ≤ t0.ctrlInterval.toNat ∧
    1 ≤ ({ t0 with ctrlInterval := 1 } : State).ctrlInterval.toNat ∧
    (([Voice.reset, busy] : List Voice)[0]? = some Voice.reset ∧ Voice.reset.active = false) ∧
    (([Voice.reset, busy] : List Voice)[1]? = some busy ∧ busy.active = true) := by decide

/-- The attack of program P8 has two stages, its release one. -/
theorem witness_TrackerNormalise :
    (min (memRead t0.ctx.mem (trk .attack 2 0).trkAddr.toNat 1) 16 ≤ (trk .attack 2 0).trkStage.toNat ∧
      (trk .attack 2 0).envState = .attack) ∧
    (min (memRead t0.ctx.mem ((trk .release 1 0).trkAddr.toNat + 1) 1) 16 ≤ (trk .release 1 0).trkStage.toNat ∧
      (trk .release 1 0).envState = .release) ∧
    ((trk .attack 1 0).trkStage.toNat < min (memRead t0.ctx.mem (trk .attack 1 0).trkAddr.toNat 1) 16 ∧
      (trk .attack 1 0).envState = .attack) ∧
    ((trk .release 0 0).trkStage.toNat < min (memRead t0.ctx.mem ((trk .release 0 0).trkAddr.toNat + 1) 1) 16 ∧
      (trk .release 0 0).envState = .release) := by decide +kernel

/-- Each clause of the load: no tracker, a release that is over, the sustain, a stage of attack and of release. -/
theorem witness_TrackerLoadsStage : Voice.reset.trkAddr = 0 ∧
    (trkNormalise t0.ctx (trk .release 1 0)).envState = .idle ∧
    (trkNormalise t0.ctx (trk .attack 2 0)).envState = .sustain ∧
    (trkNormalise t0.ctx (trk .attack 1 1)).envState = .attack ∧
    (trkNormalise t0.ctx (trk .release 0 1)).envState = .release ∧
    (trkNormalise t0.ctx (trk .attack 1 1)).trkTick.toNat <
      max 1 (ticksFromMs t0.ctx.ctrlRate (memRead t0.ctx.mem (0x3000 + 6) 2)) := by decide +kernel

theorem witness_TrackerTickResult : Voice.reset.trkAddr = 0 ∧ (trk .sustain 0 0).envState ≠ .attack ∧
    (trk .attack 1 0).trkTick.toNat + 1 < max 1 (ticksFromMs t0.ctx.ctrlRate (memRead t0.ctx.mem (0x3000 + 6) 2)) ∧
    max 1 (ticksFromMs t0.ctx.ctrlRate (memRead t0.ctx.mem (0x3000 + 6) 2)) ≤
      (trk .release 16 1).trkTick.toNat + 1 ∧
    (trk .release 16 1).trkStage.toNat ≤ 16 := by decide +kernel

/-- Whether a note lies in a zone of program P9's instrument. -/
abbrev zoneHit (f z : Nat) : Prop :=
  memRead t0.ctx.mem (0x4000 + 12 + 16 * z) 4 ≤ f ∧ f ≤ memRead t0.ctx.mem (0x4000 + 12 + 16 * z + 4) 4

/-- The bounds of the zones are inclusive: 30000 is in zone 0, 60000 and 70000 in zone 1, 70001 in none. -/
theorem witness_FirstMatchingZoneWins : min (memRead t0.ctx.mem 0x4000 1) 8 = 2 ∧ zoneHit 30000 0 ∧
    (zoneHit 60000 1 ∧ ¬ zoneHit 60000 0) ∧ (zoneHit 70000 1 ∧ ¬ zoneHit 70000 0) ∧
    ¬ zoneHit 70001 0 ∧ ¬ zoneHit 70001 1 := by decide +kernel

theorem witness_EnvelopeStaysInRange : (env .attack 268435456).envValue.toNat ≤ 268435456 ∧
    ({ env .attack 0 with sustain := 268435456 } : Voice).sustain.toNat ≤ 268435456 := by decide

theorem witness_FlatEnvelopes : (trk .release 0 0).trkAddr ≠ 0 ∧ (env .idle 777).trkAddr = 0 ∧
    (env .idle 777).envState = .idle ∧ (env .sustain 5).envState = .sustain ∧
    268435456 ≤ ({ env .attack 5 with rateAttack := 268435456 } : Voice).rateAttack.toNat ∧
    268435456 ≤ ({ env .decay 5 with rateDecay := 268435456 } : Voice).rateDecay.toNat ∧
    268435456 ≤ ({ env .release 5 with rateRelease := 0xFFFFFFFF } : Voice).rateRelease.toNat := by decide

/-- A block below the top, the crossing at k = 36 of section 2.5, one that reaches the top exactly with its last sample,
and one that starts at the top (k = 0). -/
theorem witness_AttackBlock : 1 ≤ 256 ∧ (env .attack 268000000).trkAddr = 0 ∧
    (env .attack 268000000).envState = .attack ∧ (env .attack 268435456).envValue.toNat ≤ 268435456 ∧
    (env .attack 0).sustain.toNat ≤ 268435456 ∧ (env .attack 0).rateAttack.toNat < 268435456 ∧
    (env .attack 268000000).envValue.toNat + 1000 * 256 < 268435456 ∧
    (268435456 ≤ (env .attack 268400000).envValue.toNat + 1000 * 36 ∧
      (env .attack 268400000).envValue.toNat + 1000 * 36 < 268435456 + 1000) ∧
    (268435456 ≤ (0 : Nat) + 1048576 * 256 ∧ 0 + 1048576 * 256 < 268435456 + 1048576) ∧
    (env .attack 268435456).envValue.toNat = 268435456 := by decide

/-- Above, at and below the sustain level, with a finite and an infinite rate. -/
theorem witness_DecayBlock : (env .decay 5).trkAddr = 0 ∧ (env .decay 5).envState = .decay ∧
    (env .decay 5).envValue.toNat ≤ 268435456 ∧ (env .decay 5).sustain.toNat ≤ 268435456 ∧
    (env .decay 5).rateDecay.toNat < 268435456 ∧ (134217728 : Int) = (env .decay 5).sustain.toNat ∧
    ((env .decay 5).sustain.toNat : Int) < 268435456 ∧ (0 : Int) < (env .decay 5).sustain.toNat ∧
    268435456 ≤ ({ env .decay 5 with rateDecay := 268435456 } : Voice).rateDecay.toNat := by decide

/-- Section 2.5: 512000 ends in a block of 256 at rate 2000 exactly, 512001 does not. -/
theorem witness_ReleaseBlock : (env .release 512000).trkAddr = 0 ∧ (env .release 512000).envState = .release ∧
    (env .release 512000).rateRelease.toNat < 268435456 ∧
    (env .release 512000).envValue.toNat ≤ (env .release 512000).rateRelease.toNat * 256 ∧
    (env .release 512001).rateRelease.toNat * 256 < (env .release 512001).envValue.toNat := by decide

/-- A voice of each kind and a tracker-bound one; the first slot, inactive, and the last; a sustain at 0 and at 1, an
attack, and a release that ends. -/
theorem witness_EarlyOutAndDispatch : (trk .attack 0 0).trkAddr ≠ 0 ∧
    (([Voice.reset, busy] : List Voice)[0]? = some Voice.reset ∧ Voice.reset.active = false) ∧
    (([Voice.reset, busy] : List Voice)[1]? = some busy ∧ (t0.mix : List Word).length = t0.mix.length) ∧
    (Voice.reset.trkAddr = 0 ∧ Voice.reset.kind = .basic ∧ (smp .off).kind = .sample ∧
      ({ Voice.reset with kind := .wavetable } : Voice).kind = .wavetable ∧
      ({ Voice.reset with kind := .noise } : Voice).kind = .noise) ∧
    (env .sustain 0).active = true ∧ (envBlock 8 (env .sustain 0)).1.start = 0 ∧
    (env .sustain 0).envState ≠ .attack ∧ (envBlock 8 (env .sustain 1)).1.start ≠ 0 ∧
    (env .attack 0).envState = .attack ∧ (env .release 16000).rateRelease.toNat < 268435456 ∧
    (env .release 16000).envValue ≠ 0 ∧
    (env .release 16000).envValue.toNat ≤ (env .release 16000).rateRelease.toNat * 8 := by decide

/-- Each of the three renderers with its sample function, and both ends of a block. -/
theorem witness_PhaseRenderers :
    (∃ render sample, render = renderBasic ∧ sample = fun p => basicSample t0.ctx busy.shape p busy.pulseWidth) ∧
    (∃ render sample, render = renderWavetable ∧ sample = wtSample t0.ctx busy.wtId.toNat) ∧
    (∃ render sample, render = renderTracker ∧ sample = trkSample t0.ctx busy) ∧
    (List.replicate 8 (0 : Word))[0]? = some 0 ∧ (List.replicate 8 (0 : Word))[7]? = some 0 :=
  ⟨⟨_, _, rfl, rfl⟩, ⟨_, _, rfl, rfl⟩, ⟨_, _, rfl, rfl⟩, by decide, by decide⟩

/-- The smallest and the largest size; the registered id 1, the empty entry 0 and the id 8, which is out of range. -/
theorem witness_WavetableIndex : (1 ≤ 1 ∧ 1 < 4294967296) ∧ (1 ≤ 4294967295 ∧ 4294967295 < 4294967296) ∧
    t0.ctx.wreg[1]? = some { valid := true, base := 0x100, size := 3, depth := 16 } ∧ (0x100 : Word) ≠ 0 ∧
    (3 : Word) ≠ 0 ∧ (t0.ctx.wreg[0]? = some WtEntry.reset ∧ WtEntry.reset.valid = false) ∧
    t0.ctx.wreg[8]? = none := by decide

/-- The counts and seeds of a noise voice clocked on every fourth sample. -/
theorem witness_NoiseClockedByCarry : ∃ (x : Voice) (clocks : Nat → Nat) (seed : Nat → Word),
    x.phaseInc = 0x40000000 ∧ (∀ i, clocks i = (x.phase.toNat + i * x.phaseInc.toNat) / 4294967296) ∧
    seed 0 = x.noiseSeed ∧ (∀ k, seed (k + 1) = BitVec.ofNat 32 ((seed k).toNat * 1664525 + 1013904223)) ∧
    (List.replicate 8 (0 : Word))[7]? = some 0 :=
  ⟨{ Voice.reset with phaseInc := 0x40000000 }, _, fun k => Nat.rec 0 (fun _ w => noiseNext w) k, rfl, fun _ => rfl,
    rfl, fun _ => rfl, rfl⟩

/-- The first and the last word of the sine ROM, the sign of a saw at both bounds, each element depth, the waveform codes
at theirs, and both morph factors. -/
theorem witness_SampleValues :
    ((t0.ctx.sineRom[0 / 64]?.bind fun row => row[0 % 64]?) = some (0 : Word) ∧
      (t0.ctx.sineRom[4095 / 64]?.bind fun row => row[4095 % 64]?) = some (-3294197 : Word)) ∧
    ((32767 : Int) = if (0x7FFFFFFF : Word).toNat / 65536 < 32768 then ((0x7FFFFFFF : Word).toNat / 65536 : Int)
      else (0x7FFFFFFF : Word).toNat / 65536 - 65536) ∧
    ((-32768 : Int) = if (0x80000000 : Word).toNat / 65536 < 32768 then ((0x80000000 : Word).toNat / 65536 : Int)
      else (0x80000000 : Word).toNat / 65536 - 65536) ∧
    [(16 : BitVec 5), 8, 4].map BitVec.toNat = [16, 8, 4] ∧ t0.ctx.nibbleOrder = .lowFirst ∧
    ([0xFFFF, 0xFFFE, 0xFFFD, 0xFFFC, 0xFFFB, 0x0000, 0x7FFF] : List Half).map BitVec.toInt =
      [-1, -2, -3, -4, -5, 0, 32767] ∧
    Voice.reset.trkMorph = 0 ∧ busy.trkMorph ≠ 0 :=
  ⟨by decide +kernel, by decide, by decide, by decide, by decide, by decide, by decide, by decide⟩

/-- The overridden and the registered root and none; a sample read; the last sample and the end; every move at its
boundary. -/
theorem witness_SampleHeadMoves :
    memRead t0.ctx.mem (pcm.base.toNat + 2 * 11) 2 = 11000 ∧
    ((44000 : Nat) = if Voice.reset.rootOverride ≠ 0 then Voice.reset.rootOverride.toNat else pcm.root.toNat) ∧
    (0 = if Voice.reset.rootOverride ≠ 0 then Voice.reset.rootOverride.toNat else SmpEntry.reset.root.toNat) ∧
    (786431 / 65536 < pcm.length.toNat ∧ pcm.length.toNat ≤ 786432 / 65536) ∧
    ((smp .forward).loopMode ≠ .off ∧ (smp .pingPong).loopMode = .pingPong ∧ (smp .reverse).loopMode ≠ .pingPong) ∧
    (589823 + 65536 < (smp .forward).loopEnd.toNat * 65536 ∧
      (smp .forward).loopEnd.toNat * 65536 ≤ 589824 + 65536) ∧
    ((smp .reverse).loopStart.toNat * 65536 + 65536 ≤ 327680 ∧
      327679 < (smp .reverse).loopStart.toNat * 65536 + 65536) := by decide

theorem witness_LoopKeepsPosition : (smp .pingPong).loopMode ≠ .off ∧
    (smp .pingPong).loopStart.toNat < (smp .pingPong).loopEnd.toNat ∧
    (655359 : BitVec 64).toNat < (smp .pingPong).loopEnd.toNat * 65536 ∧
    (smp .pingPong).loopStart.toNat * 65536 ≤ (655359 : BitVec 64).toNat ∧
    (sampleStep (smp .pingPong) 12 98304 { pos := 589824, dir := .forward, ended := false }).dir ≠ .forward ∧
    (sampleStep (smp .pingPong) 12 98304 { pos := 294912, dir := .backward, ended := false }).dir ≠ .backward := by
  decide

/-- A registered sample under a finished voice and under voices whose heads, over two steps, go on or end; the last
position before the end and the first that ends. -/
theorem witness_OffModeEndsVoice :
    (t0.ctx.sreg[(smp .off).smpId.toNat]? = some pcm ∧ pcm.valid = true ∧ pcm.base ≠ 0 ∧ pcm.length ≠ 0) ∧
    (∀ x ∈ [smp .forward, { smp .off with smpPos := 720896 }], x.smpFinished = false ∧ ∃ head : Nat → PlayHead,
      head 0 = { pos := x.smpPos, dir := x.smpDir, ended := false } ∧
      (∀ k, head (k + 1) = sampleStep x pcm.length.toNat (sampleInc t0.ctx pcm x).toNat (head k)) ∧
      (head 2).ended = decide (x.loopMode = .off)) ∧
    ({ smp .off with smpFinished := true } : Voice).smpFinished = true ∧
    (smp .off).loopMode = .off ∧ (720895 : BitVec 64).toNat + 65536 < pcm.length.toNat * 65536 ∧
    pcm.length.toNat * 65536 ≤ (720896 : BitVec 64).toNat + 65536 := by
  refine ⟨by decide, fun x hx => ?_, by decide, by decide, by decide, by decide⟩
  refine ⟨?_, fun k => Nat.rec { pos := x.smpPos, dir := x.smpDir, ended := false }
    (fun _ h => sampleStep x pcm.length.toNat (sampleInc t0.ctx pcm x).toNat h) k, rfl, fun _ => rfl, ?_⟩ <;>
  · obtain rfl | rfl : x = smp .forward ∨ x = { smp .off with smpPos := 720896 } := by simpa using hx
    · decide +kernel
    · decide +kernel

/-- A loop end of 0, at the length and above it; a registered id, an empty entry and an id out of range; both starts. -/
theorem witness_SampleStartClamps :
    (t0.ctx.sreg[(smp .forward).smpId.toNat]? = some pcm ∧ pcm.valid = true) ∧
    ((0 : Word) = 0 ∧ ¬ pcm.length.toNat < (12 : Word).toNat ∧ pcm.length.toNat < (13 : Word).toNat) ∧
    (t0.ctx.sreg[0]? = some SmpEntry.reset ∧ SmpEntry.reset.valid = false ∧ t0.ctx.sreg[4]? = none) ∧
    (smp .forward).loopMode ≠ .reverse ∧ (smp .reverse).loopMode = .reverse ∧
    (sampleStart t0.ctx (smp .forward)).loopEnd ≠ 0 := by decide

theorem witness_MissingDataIsSilent : (∀ e, t0.ctx.wreg[Voice.reset.wtId.toNat]? = some e →
      e.valid = false ∨ e.base = 0 ∨ e.size = 0) ∧
    (∀ e, t0.ctx.wreg[({ Voice.reset with wtId := 8 } : Voice).wtId.toNat]? = some e →
      e.valid = false ∨ e.base = 0 ∨ e.size = 0) ∧
    (∀ e, t0.ctx.sreg[Voice.reset.smpId.toNat]? = some e → e.valid = false ∨ e.base = 0 ∨ e.length = 0) :=
  ⟨fun _ h => .inl (by cases h; rfl), nofun, fun _ h => .inl (by cases h; rfl)⟩

theorem witness_VoicesAddWithoutOverflow : (withVoice busy).Inv ∧ 1 ≤ 8 ∧ 7 < 8 :=
  ⟨busy_state_inv, by decide, by decide⟩

/-- A scaled value below, inside and above the 16-bit range. -/
theorem witness_QuantiserFormula :
    ((-99610 : Int) = -100000 * (255 : Byte).toNat / 256 ∧ (-99610 : Int) < -32768) ∧
    ((16383 : Int) = 32767 * (128 : Byte).toNat / 256 ∧ ¬ (16383 : Int) < -32768 ∧ ¬ 32767 < (16383 : Int)) ∧
    ((50000 : Int) = 100000 * (128 : Byte).toNat / 256 ∧ 32767 < (50000 : Int)) := by decide

/-- A write at 5 and reads beside it, one of them at an address that wraps. -/
theorem witness_LittleEndianReads : 6 % 4294967296 ≠ (5 : Word).toNat ∧ 4294967300 % 4294967296 ≠ (5 : Word).toNat := by
  decide

theorem witness_ResetValues : State.resetWith tiny tables = State.resetWith tiny tables ∧
    Voice.reset ∈ (State.resetWith tiny tables).voices := ⟨rfl, List.mem_cons_self⟩

end Sys2Proof.Tests
end

section
/-! PROOFS. The state right after reset (`10_state.md` R39): its lists have the lengths the parameters give and hold
nothing but reset entries; every other field has its value by definition. -/

namespace Sys2Proof.Machine

section
variable (c : Config) (mem : Memory)

@[simp] theorem State.resetWith_voices_length : (State.resetWith c mem).voices.length = c.nv := List.length_replicate
@[simp] theorem State.resetWith_sreg_length : (State.resetWith c mem).sreg.length = c.ns := List.length_replicate
@[simp] theorem State.resetWith_wreg_length : (State.resetWith c mem).wreg.length = c.nw := List.length_replicate
@[simp] theorem State.resetWith_mix_length : (State.resetWith c mem).mix.length = c.maxBlk := List.length_replicate

end

section
variable {c : Config} {mem : Memory}

theorem Voice.eq_reset_of_mem_resetWith {x : Voice} (h : x ∈ (State.resetWith c mem).voices) : x = Voice.reset :=
  List.eq_of_mem_replicate h

theorem SmpEntry.eq_reset_of_mem_resetWith {e : SmpEntry} (h : e ∈ (State.resetWith c mem).sreg) :
    e = SmpEntry.reset :=
  List.eq_of_mem_replicate h

theorem WtEntry.eq_reset_of_mem_resetWith {e : WtEntry} (h : e ∈ (State.resetWith c mem).wreg) : e = WtEntry.reset :=
  List.eq_of_mem_replicate h

end

/-- Settles O59: an element of a reset list is the reset entry, and the reset entries and the global registers are
defined to have the table's values. -/
theorem resetValues : Obligations.ResetValues := by
  unfold Obligations.ResetValues
  rintro c mem s rfl
  refine ⟨State.resetWith_voices_length c mem, State.resetWith_sreg_length c mem, State.resetWith_wreg_length c mem,
    State.resetWith_mix_length c mem, ?voices, rfl, rfl, rfl, rfl, ?samples, ?wavetables, rfl, rfl, rfl, rfl, rfl⟩
  case voices => exact fun _ hx => Voice.eq_reset_of_mem_resetWith hx
  case samples => exact fun _ he => SmpEntry.eq_reset_of_mem_resetWith he
  case wavetables => exact fun _ he => WtEntry.eq_reset_of_mem_resetWith he

end Sys2Proof.Machine
end

section
/-! PROOFS. Table memory as the block reads it and as the platform writes it (`20_memory.md` R61 to R63, R76): a read
of several bytes is put together from reads of one byte, and `Sys2Proof/Laws/Memory.lean` says what a write does to
those. -/

namespace Sys2Proof.Machine

section
variable (m : Memory) (a : Nat)

theorem memRead_one : memRead m a 1 = (memByte m a).toNat := rfl

theorem memRead_two : memRead m a 2 = (memByte m a).toNat + 256 * (memByte m (a + 1)).toNat := rfl

/-- A read splits into the read of its first n bytes and the read of the k bytes behind them. -/
theorem memRead_add (n k : Nat) : memRead m a (n + k) = memRead m a n + 256 ^ n * memRead m (a + n) k := by
  induction n generalizing a with
  | zero => simp [memRead]
  | succ n ih =>
    rw [Nat.succ_add, memRead, memRead, ih (a + 1), Nat.add_assoc a 1 n, Nat.add_comm 1 n, Nat.pow_succ']
    ring

theorem memRead_four : memRead m a 4 = memRead m a 2 + 65536 * memRead m (a + 2) 2 := memRead_add m a 2 2

theorem memByte_add_addrSpace : memByte m (a + addrSpace) = memByte m a := by
  rw [memByte, Nat.add_mod_right, memByte]

end

/-- Settles O58: the reads split into single bytes, and the platform's write is `putByte`, which the laws of table
memory describe. -/
theorem littleEndianReads : Obligations.LittleEndianReads := by
  unfold Obligations.LittleEndianReads
  refine ⟨fun m a => ?reads, fun s a b => ?write⟩
  case reads => exact ⟨memRead_one m a, memRead_two m a, memRead_four m a, memByte_add_addrSpace m a⟩
  case write => exact ⟨rfl, memByte_putByte_self s.mem a.toNat b a.isLt, fun _ h => memByte_putByte_other s.mem b h⟩

end Sys2Proof.Machine
end

section
/-! PROOFS. The sample oscillator (`43_sample_playback_oscillator.md` R166, R167, R170 to R173; `20_memory.md` R68): the
playback increment, the format of a sample, the fetch, and where one step takes the head of a looping voice. -/

namespace Sys2Proof.Machine

/-- The signed reading of a number that fits 16 bits (R68). -/
theorem s16_eq {k : Nat} (hk : k < 65536) : s16 k = if k < 32768 then (k : Int) else k - 65536 := by
  rw [s16, BitVec.toInt_eq_toNat_cond, BitVec.toNat_ofNat, Nat.mod_eq_of_lt hk]
  split <;> split <;> omega

theorem pcmSample_eq (c : Ctx) (e : SmpEntry) (k : Nat) :
    pcmSample c e k =
      if memRead c.mem (e.base.toNat + 2 * k) 2 < 32768 then (memRead c.mem (e.base.toNat + 2 * k) 2 : Int)
      else memRead c.mem (e.base.toNat + 2 * k) 2 - 65536 :=
  s16_eq (memRead_lt c.mem _ 2)

/-! ## The increment and the fetch -/

/-- The root frequency a voice plays a sample against: its own, else the registered one (R166). -/
def SmpEntry.rootFor (e : SmpEntry) (x : Voice) : Nat :=
  if x.rootOverride ≠ 0 then x.rootOverride.toNat else e.root.toNat

section
variable {c : Ctx} {e : SmpEntry}

theorem sampleInc_of_root_zero {x : Voice} (h : e.rootFor x = 0) : sampleInc c e x = 0 := if_pos h

theorem sampleInc_toNat {x : Voice} (h : e.rootFor x ≠ 0) :
    (sampleInc c e x).toNat = x.freq.toNat * e.rate.toNat * 65536 / (e.rootFor x * c.fs) % 4294967296 :=
  (congrArg BitVec.toNat (if_neg h)).trans (BitVec.toNat_ofNat ..)

theorem sampleFetch_of_lt {pos : BitVec 64} (h : pos.toNat / 65536 < e.length.toNat) :
    sampleFetch c e pos = pcmSample c e (pos.toNat / 65536) := by
  rw [sampleFetch, Nat.shiftRight_eq_div_pow, if_pos h]

theorem sampleFetch_of_length_le {pos : BitVec 64} (h : e.length.toNat ≤ pos.toNat / 65536) :
    sampleFetch c e pos = 0 := by
  rw [sampleFetch, Nat.shiftRight_eq_div_pow, if_neg (Nat.not_lt.mpr h)]

end

/-! ## The head of a looping voice -/

section
variable (x : Voice)

theorem Voice.loopHi_eq : x.loopHi = x.loopEnd.toNat * 65536 := Nat.shiftLeft_eq ..

theorem Voice.loopLo_eq : x.loopLo = x.loopStart.toNat * 65536 := Nat.shiftLeft_eq ..

/-- For a loop end of 0 the truncated difference gives the 0 of the model's own case. -/
theorem Voice.loopTop_eq : x.loopTop = (x.loopEnd.toNat - 1) * 65536 := by
  rw [Voice.loopTop, Nat.shiftLeft_eq]
  split <;> omega

theorem Voice.toNat_loopLo : (BitVec.ofNat 64 x.loopLo).toNat = x.loopStart.toNat * 65536 := by
  have := x.loopStart.isLt
  rw [x.loopLo_eq, BitVec.toNat_ofNat, Nat.mod_eq_of_lt (by omega)]

theorem Voice.toNat_loopTop : (BitVec.ofNat 64 x.loopTop).toNat = (x.loopEnd.toNat - 1) * 65536 := by
  have := x.loopEnd.isLt
  rw [x.loopTop_eq, BitVec.toNat_ofNat, Nat.mod_eq_of_lt (by omega)]

/-- Where a forward move past the loop end puts the head: ping-pong turns on the last sample of the loop (R171), the
other modes start the loop again (R170, R172). -/
def Voice.turnAtEnd (h : PlayHead) : PlayHead :=
  if x.loopMode = .pingPong then { h with pos := BitVec.ofNat 64 x.loopTop, dir := .backward }
  else { h with pos := BitVec.ofNat 64 x.loopLo }

/-- Where a backward move below the loop start puts the head. -/
def Voice.turnAtStart (h : PlayHead) : PlayHead :=
  if x.loopMode = .pingPong then { h with pos := BitVec.ofNat 64 x.loopLo, dir := .forward }
  else { h with pos := BitVec.ofNat 64 x.loopTop }

end

section
variable {x : Voice} {sinc : Nat} {h : PlayHead} (length : Nat)

theorem sampleStep_forward (hm : x.loopMode ≠ .off) (hd : h.dir = .forward) :
    sampleStep x length sinc h = headForward x.loopHi sinc (x.turnAtEnd h) h := by
  cases hx : x.loopMode with
  | off => exact absurd hx hm
  | forward | pingPong | reverse => simp [sampleStep, Voice.turnAtEnd, hx, hd]

theorem sampleStep_backward (hm : x.loopMode ≠ .off) (hd : h.dir = .backward) :
    sampleStep x length sinc h = headBackward x.loopLo sinc (x.turnAtStart h) h := by
  cases hx : x.loopMode with
  | off => exact absurd hx hm
  | forward | pingPong | reverse => simp [sampleStep, Voice.turnAtStart, hx, hd]

theorem sampleStep_forward_inside (hm : x.loopMode ≠ .off) (hd : h.dir = .forward)
    (hin : h.pos.toNat + sinc < x.loopEnd.toNat * 65536) :
    ∃ pos : BitVec 64, pos.toNat = h.pos.toNat + sinc ∧ sampleStep x length sinc h = { h with pos := pos } := by
  have hend := x.loopEnd.isLt
  rw [sampleStep_forward length hm hd, x.loopHi_eq]
  obtain ⟨hout, -⟩ | ⟨-, hmove⟩ := headForward_cases sinc (x.turnAtEnd h) h (hi := x.loopEnd.toNat * 65536) (by omega)
  · omega
  · exact hmove

theorem sampleStep_forward_end (hm : x.loopMode ≠ .off) (hd : h.dir = .forward)
    (hout : x.loopEnd.toNat * 65536 ≤ h.pos.toNat + sinc) : sampleStep x length sinc h = x.turnAtEnd h := by
  rw [sampleStep_forward length hm hd, x.loopHi_eq, headForward, if_pos hout]

theorem sampleStep_backward_inside (hm : x.loopMode ≠ .off) (hd : h.dir = .backward)
    (hin : x.loopStart.toNat * 65536 + sinc ≤ h.pos.toNat) :
    ∃ pos : BitVec 64, pos.toNat + sinc = h.pos.toNat ∧ sampleStep x length sinc h = { h with pos := pos } := by
  rw [sampleStep_backward length hm hd, x.loopLo_eq]
  obtain ⟨hout, -⟩ | ⟨-, pos, hpos, hmove⟩ := headBackward_cases (x.loopStart.toNat * 65536) sinc (x.turnAtStart h) h
  · omega
  · exact ⟨pos, by omega, hmove⟩

theorem sampleStep_backward_start (hm : x.loopMode ≠ .off) (hd : h.dir = .backward)
    (hout : h.pos.toNat < x.loopStart.toNat * 65536 + sinc) : sampleStep x length sinc h = x.turnAtStart h := by
  rw [sampleStep_backward length hm hd, x.loopLo_eq, headBackward, if_pos (by omega)]

end

/-- Settles O51: the increment, the format and the fetch by their equations; a move of the head stays inside the loop
or turns at the boundary it passes, and the loop mode says how. -/
theorem sampleHeadMoves : Obligations.SampleHeadMoves := by
  unfold Obligations.SampleHeadMoves
  refine ⟨?increment, fun _ _ _ => ⟨sampleFetch_of_lt, sampleFetch_of_length_le⟩, ?format, ?moves⟩
  case increment =>
    rintro c e x _ rfl
    exact ⟨sampleInc_of_root_zero, sampleInc_toNat⟩
  case format =>
    rintro c e k _ rfl
    exact pcmSample_eq c e k
  case moves =>
    rintro x length sinc _ _ _ h hm rfl rfl rfl
    refine ⟨sampleStep_forward_inside length hm, fun hd hout hx => ?endWraps, fun hd hout hx => ?endFlips,
      sampleStep_backward_inside length hm, fun hd hout hx => ?startWraps, fun hd hout hx => ?startFlips⟩
    case endWraps => exact ⟨_, x.toNat_loopLo, (sampleStep_forward_end length hm hd hout).trans (if_neg hx)⟩
    case endFlips => exact ⟨_, x.toNat_loopTop, (sampleStep_forward_end length hm hd hout).trans (if_pos hx)⟩
    case startWraps => exact ⟨_, x.toNat_loopTop, (sampleStep_backward_start length hm hd hout).trans (if_neg hx)⟩
    case startFlips => exact ⟨_, x.toNat_loopLo, (sampleStep_backward_start length hm hd hout).trans (if_pos hx)⟩

end Sys2Proof.Machine
end

section
/-! PROOFS. What the decoder makes of a header and the words behind it (`30_encoding.md` R91 to R96): the opcode as a
number, the number of operand words, the whole command, and the header fields that a command uses. -/

namespace Sys2Proof

/-! ## The fields of a header as numbers -/

theorem headerOp_toNat (h : Word) : (headerOp h).toNat = h.toNat % 256 := by
  simp [headerOp]

theorem headerOp_eq_setWidth (h : Word) : headerOp h = h.setWidth 8 := by
  apply BitVec.eq_of_toNat_eq
  rw [headerOp_toNat, BitVec.toNat_setWidth]

theorem headerImmLow_toNat (h : Word) : (headerImmLow h).toNat = h.toNat / 65536 % 256 := by
  simp [headerImmLow, Nat.shiftRight_eq_div_pow]

/-! ## The number of operand words -/

/-- The table of R91, by the opcode's number. -/
theorem operandCount_eq (h : Word) : operandCount h =
    if h.toNat % 256 ∈ [0x01, 0x03, 0x06, 0x09, 0x0C, 0x0D, 0x14] then 1
    else if h.toNat % 256 ∈ [0x08, 0x0B, 0x13] then 2
    else if h.toNat % 256 ∈ [0x0F, 0x12] then 3
    else if h.toNat % 256 ∈ [0x07, 0x1C] then 4
    else if h.toNat % 256 = 0x10 then 1 + h.toNat / 65536 % 256
    else 0 := by
  rw [operandCount, headerOp_toNat, headerImmLow_toNat]
  generalize h.toNat % 256 = op
  split <;> simp_all

theorem operandCount_setArp {h : Word} (hop : h.toNat % 256 = 0x10) : operandCount h = 1 + h.toNat / 65536 % 256 := by
  simp [operandCount_eq, hop]

theorem operandCount_setSmp {h : Word} (hop : h.toNat % 256 = 0x0F) : operandCount h = 3 := by
  simp [operandCount_eq, hop]

theorem operandCount_undefined {h : Word} (hop : 0x1E ≤ h.toNat % 256) : operandCount h = 0 := by
  rw [← headerOp_toNat] at hop
  unfold operandCount
  split <;> omega

/-! ## A whole command -/

section
variable {h : Word} {ws : List Word}

theorem decode_of_instrOf_some {i : Instr} (hl : operandCount h ≤ ws.length)
    (hi : instrOf h (ws.take (operandCount h)) = some i) : decode (h :: ws) = .instr i (ws.drop (operandCount h)) := by
  rw [decode, if_neg (by omega), hi]

theorem decode_of_instrOf_none (hl : operandCount h ≤ ws.length) (hi : instrOf h (ws.take (operandCount h)) = none) :
    decode (h :: ws) = .undefinedOpcode (headerOp h) (ws.drop (operandCount h)) := by
  rw [decode, if_neg (by omega), hi]

theorem decode_undefined (hop : 0x1E ≤ h.toNat % 256) : decode (h :: ws) = .undefinedOpcode (headerOp h) ws := by
  have hn : instrOf h (ws.take (operandCount h)) = none := by rwa [instrOf_none_iff, headerOp_toNat]
  have hc := operandCount_undefined hop
  rw [decode_of_instrOf_none (by omega) hn, hc, List.drop_zero]

end

/-- SET_ARP comes from its own opcode alone, and its notes are the words behind the duration. -/
theorem instrOf_eq_setArp {h : Word} {ops notes : List Word} {v : Byte} {ms : Word}
    (hi : instrOf h ops = some (.setArp v ms notes)) : h.toNat % 256 = 0x10 ∧ notes = ops.drop 1 := by
  rw [← headerOp_toNat]
  unfold instrOf at hi
  split at hi <;> cases hi
  exact ⟨‹_›, rfl⟩

/-- The count field of SET_ARP holds at most 255, so what the decoder builds is well formed (R92). -/
theorem wellFormed_of_instrOf {h : Word} {ops : List Word} {i : Instr} (hl : ops.length = operandCount h)
    (hi : instrOf h ops = some i) : wellFormed i = true := by
  cases i
  case setArp v ms notes =>
    obtain ⟨hop, rfl⟩ := instrOf_eq_setArp hi
    have hn : (ops.drop 1).length ≤ 255 := by
      rw [List.length_drop, hl, operandCount_setArp hop]
      omega
    simpa [wellFormed] using hn
  all_goals rfl

/-- With all its words there, a header starts a well-formed command or has an undefined opcode, and the decoder takes
exactly the words the header asks for. -/
theorem decode_cases {h : Word} {ws : List Word} (hl : operandCount h ≤ ws.length) :
    (∃ i, wellFormed i = true ∧ decode (h :: ws) = .instr i (ws.drop (operandCount h))) ∨
      (0x1E ≤ h.toNat % 256 ∧ decode (h :: ws) = .undefinedOpcode (headerOp h) (ws.drop (operandCount h))) := by
  cases hi : instrOf h (ws.take (operandCount h)) with
  | some i => exact .inl ⟨i, wellFormed_of_instrOf (List.length_take_of_le hl) hi, decode_of_instrOf_some hl hi⟩
  | none => exact .inr ⟨by rwa [instrOf_none_iff, headerOp_toNat] at hi, decode_of_instrOf_none hl hi⟩

/-! ## The header fields a command uses -/

/-- The parts of a header besides the opcode that the tables of R92 and R93 give a meaning: `a`, `imm`, `imm[7:0]`, and
the bits `a[2:0]` of RENDER's format. -/
inductive HeaderField where
  | a
  | imm
  | immLow
  | format
  deriving DecidableEq

/-- Two headers hold the same value in a field. -/
def HeaderField.Agree (h h' : Word) : HeaderField → Prop
  | .a => headerA h = headerA h'
  | .imm => headerImm h = headerImm h'
  | .immLow => headerImmLow h = headerImmLow h'
  | .format => h.extractLsb' 8 3 = h'.extractLsb' 8 3

/-- The fields an opcode's command uses (R93). -/
def usedFields (op : Nat) : List HeaderField :=
  if op ∈ [0x02, 0x03, 0x06, 0x07, 0x08, 0x0C, 0x0D, 0x0E, 0x11, 0x12, 0x13, 0x16, 0x17, 0x18, 0x19, 0x1A, 0x1B] then
    [.a]
  else if op ∈ [0x01, 0x04, 0x09, 0x10] then [.a, .immLow]
  else if op ∈ [0x05, 0x0A, 0x0B, 0x0F] then [.a, .imm]
  else if op = 0x15 then [.immLow]
  else if op = 0x1C then [.imm]
  else if op = 0x1D then [.imm, .format]
  else []

/-- Two headers with one opcode that agree on every field its command uses. -/
structure SameCommand (h h' : Word) : Prop where
  op : h.toNat % 256 = h'.toNat % 256
  fields : ∀ f ∈ usedFields (h.toNat % 256), f.Agree h h'

theorem usedFields_of_a : ∀ op ∈ [0x02, 0x03, 0x06, 0x07, 0x08, 0x0C, 0x0D, 0x0E, 0x11, 0x12, 0x13, 0x16, 0x17, 0x18,
    0x19, 0x1A, 0x1B], usedFields op = [.a] := by decide

theorem usedFields_of_a_immLow : ∀ op ∈ [0x01, 0x04, 0x09, 0x10], usedFields op = [.a, .immLow] := by decide

theorem usedFields_of_none {op : Nat} (h : op ∈ [0x00, 0x14] ∨ 0x1E ≤ op) : usedFields op = [] := by
  obtain h | h := h
  · revert op
    decide
  · have hne (k : Nat) (hk : k < 0x1E) : op ≠ k := by omega
    simp [usedFields, hne]

/-- RENDER's width code and crush flag are all that its format field says. -/
theorem renderFormat_congr {h h' : Word} (hf : h.extractLsb' 8 3 = h'.extractLsb' 8 3) :
    (headerA h).extractLsb' 0 2 = (headerA h').extractLsb' 0 2 ∧ (headerA h).getLsbD 2 = (headerA h').getLsbD 2 := by
  have width (g : Word) : (headerA g).extractLsb' 0 2 = (g.extractLsb' 8 3).extractLsb' 0 2 := by
    apply BitVec.eq_of_getLsbD_eq
    intro k hk
    have hk3 : k < 3 := by omega
    simp [headerA, hk, hk3, Nat.lt_of_lt_of_le hk]
  have crush (g : Word) : (headerA g).getLsbD 2 = (g.extractLsb' 8 3).getLsbD 2 := by
    simp [headerA]
  exact ⟨by rw [width, width, hf], by rw [crush, crush, hf]⟩

section
variable {h h' : Word}

theorem SameCommand.operandCount_congr (hs : SameCommand h h') : operandCount h = operandCount h' := by
  obtain ⟨hop, hf⟩ := hs
  rw [operandCount, operandCount, headerOp_toNat, headerOp_toNat, ← hop]
  clear hop
  generalize h.toNat % 256 = op at hf
  split
  case h_15 =>
    have hcount : headerImmLow h = headerImmLow h' := hf .immLow (by decide)
    rw [hcount]
  all_goals rfl

theorem SameCommand.instrOf_congr (hs : SameCommand h h') (ops : List Word) : instrOf h ops = instrOf h' ops := by
  obtain ⟨hop, hf⟩ := hs
  rw [instrOf, instrOf, headerOp_toNat, headerOp_toNat, ← hop]
  clear hop
  generalize h.toNat % 256 = op at hf
  split
  case h_30 =>
    have himm : headerImm h = headerImm h' := hf .imm (by decide)
    have hformat : h.extractLsb' 8 3 = h'.extractLsb' 8 3 := hf .format (by decide)
    obtain ⟨hwidth, hcrush⟩ := renderFormat_congr hformat
    rw [himm, hwidth, hcrush]
  case h_31 => rfl
  all_goals simp_all [usedFields, HeaderField.Agree]

theorem SameCommand.decode_congr (hs : SameCommand h h') (ws : List Word) : decode (h :: ws) = decode (h' :: ws) := by
  have hop : headerOp h = headerOp h' := BitVec.eq_of_toNat_eq (by simpa only [headerOp_toNat] using hs.op)
  simp only [decode, hs.operandCount_congr, hs.instrOf_congr, hop]

end

/-- The first operand word of SET_SMP counts by its two low bits alone. -/
theorem instrOf_setSmp_congr {h w w' : Word} (ops : List Word) (hop : h.toNat % 256 = 0x0F)
    (hw : w.toNat % 4 = w'.toNat % 4) : instrOf h (w :: ops) = instrOf h (w' :: ops) := by
  have hmode : w.extractLsb' 0 2 = w'.extractLsb' 0 2 := by
    apply BitVec.eq_of_toNat_eq
    simpa using hw
  rw [← headerOp_toNat] at hop
  simp [instrOf, hop, hmode]

theorem decode_setSmp_congr {h w w' : Word} (ws : List Word) (hop : h.toNat % 256 = 0x0F)
    (hw : w.toNat % 4 = w'.toNat % 4) : decode (h :: w :: ws) = decode (h :: w' :: ws) := by
  simp only [decode, operandCount_setSmp hop, List.length_cons, List.take_succ_cons, List.drop_succ_cons,
    instrOf_setSmp_congr _ hop hw]

/-- Settles O3: in each clause the fields assumed equal are all that the opcode's command uses, and the decoder reads
no other bit of the header. -/
theorem ignoredBitsHaveNoEffect : Obligations.IgnoredBitsHaveNoEffect := by
  unfold Obligations.IgnoredBitsHaveNoEffect
  intro h h' ws hop
  have congr (hf : ∀ f ∈ usedFields (h.toNat % 256), f.Agree h h') : decode (h :: ws) = decode (h' :: ws) :=
    SameCommand.decode_congr ⟨hop, hf⟩ ws
  refine ⟨fun ho => congr ?none, fun ho ha => congr ?voice, fun ho ha hl => congr ?voiceAndLow, fun ho hl => congr ?low,
    fun ho hi => congr ?imm, fun ho hi hf => congr ?render, fun ho w w' hw => decode_setSmp_congr ws ho hw⟩
  case none => simp [usedFields_of_none ho]
  case voice => simpa [usedFields_of_a _ ho, HeaderField.Agree] using ha
  case voiceAndLow => simpa [usedFields_of_a_immLow _ ho, HeaderField.Agree] using ⟨ha, hl⟩
  case low => simp [ho, usedFields, HeaderField.Agree, hl]
  case imm => simp [ho, usedFields, HeaderField.Agree, hi]
  case render => simp [ho, usedFields, HeaderField.Agree, hi, hf]

end Sys2Proof
end

section
/-! PROOFS. The encoding rules as the machine keeps them: a step takes a whole command or waits (`30_encoding.md` R91),
undefined opcodes and NOP do nothing (R95), and neither does a command with a voice index out of range (R97). -/

namespace Sys2Proof.Machine

/-! ## The words still waiting -/

@[simp] theorem rendered_cmd (n : Nat) (w : OutWidth) (crush : Bool) (s : State) :
    (rendered n w crush s).cmd = s.cmd := rfl

/-- No command reads or takes a word beyond its own (R91). -/
theorem exec_cmd {i : Instr} {s t : State} (h : exec i s = .next t) : t.cmd = s.cmd := by
  obtain ⟨_, -, -, he⟩ | ⟨_, _, -, -, he⟩ | ⟨-, he⟩ | ⟨_, _, _, _, -, he | ⟨_, -, he⟩⟩ | ⟨_, _, _, _, _, -, he⟩ |
    ⟨_, -, he | ⟨-, he⟩⟩ | ⟨_, -, he⟩ | ⟨_, _, _, -, he | ⟨_, -, -, -, he⟩⟩ := exec_cases i s <;>
  · rw [he] at h
    cases h
    simp

/-! ## One step, by what the decoder finds -/

section
variable {s : State} {rest : List Word}

theorem step_of_instr {i : Instr} (h : decode s.cmd = .instr i rest) : step s = exec i { s with cmd := rest } := by
  rw [step, h]

theorem step_of_undefinedOpcode {op : Byte} (h : decode s.cmd = .undefinedOpcode op rest) :
    step s = .next { s with cmd := rest } := by
  rw [step, h]

theorem step_of_incomplete (h : decode s.cmd = .incomplete) : step s = .next s := by
  rw [step, h]

end

theorem step_of_short {s : State} {h : Word} {ws : List Word} (hc : s.cmd = h :: ws)
    (hl : ws.length < operandCount h) : step s = .next s :=
  step_of_incomplete (by rw [hc, decode_incomplete hl])

/-- A step with all the words there takes exactly the header and its operand words off the stream. -/
theorem step_cmd {s t : State} {h : Word} {ws : List Word} (hc : s.cmd = h :: ws) (hl : operandCount h ≤ ws.length)
    (ht : step s = .next t) : t.cmd = ws.drop (operandCount h) := by
  obtain ⟨i, -, hd⟩ | ⟨-, hd⟩ := decode_cases hl <;> rw [← hc] at hd
  · rw [step_of_instr hd] at ht
    exact exec_cmd ht
  · rw [step_of_undefinedOpcode hd] at ht
    cases ht
    rfl

/-- Settles O2: R91's table by the opcode's number, and a header's words are all there or the step waits. -/
theorem lengthRule : Obligations.LengthRule := by
  unfold Obligations.LengthRule
  refine fun h ws => ⟨operandCount_eq h, fun hl s hc => step_of_short hc hl, fun hl => ⟨?decoded, ?taken⟩⟩
  case decoded => exact headerOp_eq_setWidth h ▸ decode_cases hl
  case taken => exact fun s t hc ht => step_cmd hc hl ht

/-- Settles O6: an undefined opcode asks for no operand words and the step drops its header; NOP is the identity. -/
theorem nopAndUndefinedOpcodes : Obligations.NopAndUndefinedOpcodes := by
  unfold Obligations.NopAndUndefinedOpcodes
  refine ⟨fun s h rest hc hop => ?undefined, fun s => ?nop⟩
  case undefined => exact step_of_undefinedOpcode (by rw [hc, decode_undefined hop])
  case nop => rfl

/-- Settles O14: a voice command rewrites a voice that is not there, and an accessor has no voice to read. -/
theorem outOfRangeVoiceIgnored : Obligations.OutOfRangeVoiceIgnored := by
  unfold Obligations.OutOfRangeVoiceIgnored
  refine fun i v s hv hge => ⟨fun hg => ?ignored, fun hg => ?zero⟩
  case ignored => rw [exec_voice s hv hg, State.updateVoice_of_ge _ hge]
  case zero =>
    obtain ⟨g, he⟩ := exec_get s hv hg
    rw [he, State.answer_of_ge g hge]

end Sys2Proof.Machine
end

section
/-! PROOFS. The envelope of a block (`40_envelope_ramp_engine.md` R111 to R122): an equation for each case of `EnvBlock`
that jumps or holds, the range of its samples, the decay move case by case, and each block at a finite rate as one
straight line from the envelope value to the value stored. -/

namespace Sys2Proof.Machine

/-! ## The cases that jump or hold -/

section
variable (n : Nat) {x : Voice}

theorem envBlock_pinned (h : x.trkAddr ≠ 0) :
    envBlock n x = ({ start := envMax, step := 0 }, x.setEnvValue envMax) := if_pos h

theorem envBlock_idle (h : x.trkAddr = 0) (hs : x.envState = .idle) :
    envBlock n x = ({ start := 0, step := 0 }, x.setEnvValue 0) := by
  rw [envBlock, if_neg (not_not.mpr h), hs]

theorem envBlock_sustain (h : x.trkAddr = 0) (hs : x.envState = .sustain) :
    envBlock n x = ({ start := x.envValue.toNat, step := 0 }, x) := by
  rw [envBlock, if_neg (not_not.mpr h), hs]

theorem envBlock_attack_infinite (h : x.trkAddr = 0) (hs : x.envState = .attack) (hr : rateInf ≤ x.rateAttack.toNat) :
    envBlock n x = ({ start := envMax, step := 0 }, { x.setEnvValue envMax with envState := .decay }) := by
  rw [envBlock, if_neg (not_not.mpr h), hs]
  exact if_pos hr

theorem envBlock_decay_infinite (h : x.trkAddr = 0) (hs : x.envState = .decay) (hr : rateInf ≤ x.rateDecay.toNat) :
    envBlock n x =
      ({ start := x.sustain.toNat, step := 0 }, { x with envValue := x.sustain, envState := .sustain }) := by
  rw [envBlock, if_neg (not_not.mpr h), hs]
  exact if_pos hr

theorem envBlock_release_infinite (h : x.trkAddr = 0) (hs : x.envState = .release)
    (hr : rateInf ≤ x.rateRelease.toNat) : envBlock n x = ({ start := 0, step := 0 }, x.enterIdle) := by
  rw [envBlock, if_neg (not_not.mpr h), hs]
  exact if_pos hr

end

/-- Settles O42: an equation of `EnvBlock` for each case that jumps or holds. -/
theorem flatEnvelopes : Obligations.FlatEnvelopes := by
  unfold Obligations.FlatEnvelopes
  exact fun n x => ⟨envBlock_pinned n, envBlock_idle n, envBlock_sustain n, envBlock_attack_infinite n,
    envBlock_decay_infinite n, envBlock_release_infinite n⟩

/-! ## The range of the samples -/

/-- The envelope of each of n samples is in 0 .. ENV_MAX (R122). -/
def Ramp.InRange (n : Nat) (r : Ramp) : Prop := ∀ i, i < n → 0 ≤ r.env i ∧ r.env i ≤ envMax

theorem Ramp.inRange_flat (n : Nat) {k : Nat} (hk : k ≤ envMax) : Ramp.InRange n { start := k, step := 0 } := by
  intro i _
  simpa [Ramp.env] using hk

/-- A line from a value in range to a value in range, as the laws of the finite blocks give it. -/
theorem Ramp.inRange_line {n : Nat} {x : Voice} {r : Ramp × Voice} (he : x.envValue.toNat ≤ envMax)
    (h : ∃ stop : Int, 0 ≤ stop ∧ stop ≤ envMax ∧ r.1 = rampTo x.envValue.toNat stop n ∧
      (r.2.envValue.toNat : Int) = stop) : r.1.InRange n := by
  obtain ⟨stop, h0, h1, hr, -⟩ := h
  intro i hi
  rw [hr]
  exact rampTo_range hi (by omega) ⟨h0, h1⟩

theorem envBlock_inRange (n : Nat) {x : Voice} (he : x.envValue.toNat ≤ envMax) (hs : x.sustain.toNat ≤ envMax) :
    (envBlock n x).1.InRange n := by
  by_cases ht : x.trkAddr = 0
  case neg => exact envBlock_pinned n ht ▸ Ramp.inRange_flat n le_rfl
  cases hst : x.envState with
  | idle => exact envBlock_idle n ht hst ▸ Ramp.inRange_flat n (Nat.zero_le _)
  | sustain => exact envBlock_sustain n ht hst ▸ Ramp.inRange_flat n he
  | attack =>
    obtain hr | hr := lt_or_ge x.rateAttack.toNat rateInf
    · exact envBlock_attack n ht hst hr ▸ Ramp.inRange_line he (attackBlock_line n he hs)
    · exact envBlock_attack_infinite n ht hst hr ▸ Ramp.inRange_flat n le_rfl
  | decay =>
    obtain hr | hr := lt_or_ge x.rateDecay.toNat rateInf
    · exact envBlock_decay n ht hst hr ▸ Ramp.inRange_line he (decayBlock_line n he hs)
    · exact envBlock_decay_infinite n ht hst hr ▸ Ramp.inRange_flat n hs
  | release =>
    obtain hr | hr := lt_or_ge x.rateRelease.toNat rateInf
    · exact envBlock_release n ht hst hr ▸ Ramp.inRange_line he (releaseBlock_line n he)
    · exact envBlock_release_infinite n ht hst hr ▸ Ramp.inRange_flat n (Nat.zero_le _)

/-- Settles O41: a block is flat at a value in range, or one line between two of them. -/
theorem envelopeStaysInRange : Obligations.EnvelopeStaysInRange := by
  unfold Obligations.EnvelopeStaysInRange
  exact fun n x he hs => ⟨envBlock_inRange n he hs, envBlock_value_le n he hs⟩

/-! ## One line to the value stored -/

/-- The block that is one line from the voice's envelope value to a value, which it stores with an envelope state
(R114, R120). -/
def rampBlock (n : Nat) (x : Voice) (value : BitVec 29) (st : EnvState) : Ramp × Voice :=
  (rampTo x.envValue.toNat value.toNat n, { x with envState := st, envValue := value })

theorem rampBlock_of_toNat {n : Nat} {x : Voice} {st : EnvState} {v : BitVec 29} {y : Int} (h : (v.toNat : Int) = y) :
    (rampTo x.envValue.toNat y n, { x.setEnvValue y with envState := st }) = rampBlock n x v st := by
  subst h
  simp [rampBlock, Voice.setEnvValue]

/-- Where such a block starts, its step, and that only envelope state and value change. -/
theorem line_of_eq_rampBlock {n : Nat} {x : Voice} {v : BitVec 29} {st : EnvState} {r : Ramp × Voice}
    (h : r = rampBlock n x v st) :
    r.1.start = x.envValue.toNat ∧ r.1.step = Int.tdiv (r.2.envValue.toNat - x.envValue.toNat) n ∧
      r.2 = { x with envState := r.2.envState, envValue := r.2.envValue } := by
  subst h
  exact ⟨rfl, rfl, rfl⟩

/-- The step of a line that gains the same amount in each of its samples. -/
theorem rampTo_step_of_mul {n : Nat} (hn : 1 ≤ n) (a d : Int) : (rampTo a (a + d * n) n).step = d := by
  rw [rampTo, add_sub_cancel_left]
  exact Int.mul_tdiv_cancel d (by omega)

/-! ## Decay -/

section
variable {x : Voice} {y : Int} {m : Nat}

theorem decayMove_at_level (h : y = x.sustain.toNat) : decayMove x y m = ((x.sustain.toNat : Int), true) := if_pos h

theorem decayMove_zero (h : y ≠ x.sustain.toNat) (hm : m = 0) : decayMove x y m = (y, false) := by
  rw [decayMove, if_neg h, if_pos hm]

theorem decayMove_infinite (h : y ≠ x.sustain.toNat) (hm : m ≠ 0) (hr : rateInf ≤ x.rateDecay.toNat) :
    decayMove x y m = ((x.sustain.toNat : Int), true) := by
  rw [decayMove, if_neg h, if_neg hm, if_pos hr]

theorem decayMove_above (hm : m ≠ 0) (hr : x.rateDecay.toNat < rateInf) (h : x.sustain.toNat < y) :
    decayMove x y m = if y - x.rateDecay.toNat * m ≤ x.sustain.toNat then ((x.sustain.toNat : Int), true)
      else (y - x.rateDecay.toNat * m, false) := by
  rw [decayMove, if_neg h.ne', if_neg hm, if_neg (not_le.mpr hr), if_pos h]

theorem decayMove_below (hm : m ≠ 0) (hr : x.rateDecay.toNat < rateInf) (h : y < x.sustain.toNat) :
    decayMove x y m = if x.sustain.toNat ≤ y + x.rateDecay.toNat * m then ((x.sustain.toNat : Int), true)
      else (y + x.rateDecay.toNat * m, false) := by
  rw [decayMove, if_neg h.ne, if_neg hm, if_neg (not_le.mpr hr), if_neg (not_lt.mpr h.le)]

end

/-- The state a decay move ends in (R115). -/
def decayEnd (reached : Bool) : EnvState := if reached then .sustain else .decay

theorem decide_decayEnd (b : Bool) : decide (decayEnd b = .sustain) = b := by cases b <;> rfl

theorem decayEnd_cases (b : Bool) : decayEnd b = .sustain ∨ decayEnd b = .decay := by cases b <;> simp [decayEnd]

section
variable (n : Nat) {x : Voice}

/-- The block that ends where a decay move from a value in range ends. -/
theorem exists_rampBlock_decayMove {y : Int} (m : Nat) (hy : 0 ≤ y ∧ y ≤ envMax) (hs : x.sustain.toNat ≤ envMax) :
    ∃ (v : BitVec 29) (b : Bool), decayMove x y m = ((v.toNat : Int), b) ∧
      (rampTo x.envValue.toNat (decayMove x y m).1 n,
        { x.setEnvValue (decayMove x y m).1 with envState := decayEnd (decayMove x y m).2 }) =
      rampBlock n x v (decayEnd b) := by
  have hv := envValue_toNat (decayMove_range m hy hs)
  exact ⟨_, _, by rw [hv], rampBlock_of_toNat hv⟩

/-- A finite Decay ends at the decay move's value, in closed form, and in Sustain exactly at the sustain level. -/
theorem decayBlock_eq_rampBlock (he : x.envValue.toNat ≤ envMax) (hs : x.sustain.toNat ≤ envMax)
    (hr : x.rateDecay.toNat < rateInf) :
    ∃ v : BitVec 29, decayBlock n x = rampBlock n x v (if v = x.sustain then .sustain else .decay) ∧
      v.toNat = if x.sustain.toNat ≤ x.envValue.toNat then max x.sustain.toNat (x.envValue.toNat - x.rateDecay.toNat * n)
        else min x.sustain.toNat (x.envValue.toNat + x.rateDecay.toNat * n) := by
  obtain ⟨v, b, hmove, hblock⟩ := exists_rampBlock_decayMove n n (x := x) (y := x.envValue.toNat) (by omega) hs
  obtain ⟨y, hy, hclosed⟩ := decayMove_eq hr x.envValue.toNat n
  obtain ⟨rfl, rfl⟩ := Prod.mk.inj (hmove.symm.trans hy)
  refine ⟨v, hblock.trans ?state, ?value⟩
  case state => simp [decayEnd, BitVec.toNat_inj]
  case value =>
    rw [← Nat.cast_mul] at hclosed
    generalize x.rateDecay.toNat * n = total at *
    split_ifs at * <;> omega

end

/-- Settles O44: the decay move case by case; a block makes it, and its closed form is the value stored. (The model has
a function `decayBlock`.) -/
theorem decayBlock_spec : Obligations.DecayBlock := by
  unfold Obligations.DecayBlock
  refine ⟨?move, fun n x _ ht hst he hs hr => ?block⟩
  case move =>
    rintro x y _ _ m rfl rfl
    exact ⟨decayMove_at_level, decayMove_zero, decayMove_infinite, decayMove_above, decayMove_below⟩
  case block =>
    obtain ⟨v, hline, hv⟩ := decayBlock_eq_rampBlock n he hs hr
    rw [← envBlock_decay n ht hst hr] at hline
    obtain ⟨hstart, hstep, hframe⟩ := line_of_eq_rampBlock hline
    exact ⟨hstart, hstep, hframe, hline ▸ hv, hline ▸ rfl⟩

/-! ## Attack -/

theorem cdiv_eq_of_bounds {a b k : Nat} (h : a ≤ b * k) (h' : b * k < a + b) : cdiv a b = k := by
  rw [Nat.mul_comm] at h h'
  exact Nat.div_eq_of_lt_le (by omega) (by rw [Nat.succ_mul]; omega)

/-- The samples an Attack at a finite rate needs to reach the top, as the model computes them (R113). -/
def attackTime (x : Voice) : Nat :=
  if envMax - x.envValue.toNat = 0 then 0 else cdiv (envMax - x.envValue.toNat) x.rateAttack.toNat

/-- The first number of samples after which an Attack at a finite rate has reached the top, or 0 at the top. -/
def IsAttackTime (x : Voice) (k : Nat) : Prop :=
  if x.envValue.toNat = envMax then k = 0
  else envMax ≤ x.envValue.toNat + x.rateAttack.toNat * k ∧
    x.envValue.toNat + x.rateAttack.toNat * k < envMax + x.rateAttack.toNat

section
variable {n : Nat} {x : Voice}

theorem IsAttackTime.eq_attackTime {k : Nat} (he : x.envValue.toNat ≤ envMax) (h : IsAttackTime x k) :
    attackTime x = k := by
  unfold IsAttackTime at h
  unfold attackTime
  split at h
  · rw [if_pos (by omega), h]
  · rw [if_neg (by omega), cdiv_eq_of_bounds] <;> omega

theorem IsAttackTime.le {k : Nat} (h : IsAttackTime x k)
    (htop : envMax ≤ x.envValue.toNat + x.rateAttack.toNat * n) : k ≤ n := by
  unfold IsAttackTime at h
  split at h
  · omega
  · have hlt : x.rateAttack.toNat * k < x.rateAttack.toNat * (n + 1) := by
      rw [Nat.mul_succ]
      omega
    exact Nat.le_of_lt_succ (Nat.lt_of_mul_lt_mul_left hlt)

theorem attackBlock_below (h : x.envValue.toNat + x.rateAttack.toNat * n < envMax) :
    ∃ v : BitVec 29, v.toNat = x.envValue.toNat + x.rateAttack.toNat * n ∧
      attackBlock n x = rampBlock n x v x.envState := by
  obtain ⟨v, hv⟩ : ∃ v : BitVec 29, v.toNat = x.envValue.toNat + x.rateAttack.toNat * n :=
    ⟨.ofNatLT _ (h.trans (by decide)), rfl⟩
  exact ⟨v, hv, (if_pos (by omega)).trans (rampBlock_of_toNat (by exact_mod_cast hv))⟩

theorem attackBlock_crossing (hs : x.sustain.toNat ≤ envMax)
    (htop : envMax ≤ x.envValue.toNat + x.rateAttack.toNat * n) :
    ∃ (v : BitVec 29) (b : Bool), decayMove x envMax (n - attackTime x) = ((v.toNat : Int), b) ∧
      attackBlock n x = rampBlock n x v (decayEnd b) := by
  obtain ⟨v, b, hmove, hblock⟩ :=
    exists_rampBlock_decayMove n (x := x) (y := envMax) (n - attackTime x) (by omega) hs
  exact ⟨v, b, hmove, (if_neg (by omega)).trans hblock⟩

end

/-- Settles O43: below the top the block gains the rate in each sample; else the samples left after the attack time go
to the decay move. (The model has a function `attackBlock`.) -/
theorem attackBlock_spec : Obligations.AttackBlock := by
  unfold Obligations.AttackBlock
  intro n x hn ht hst he hs hr
  obtain hbelow | htop := lt_or_ge (x.envValue.toNat + x.rateAttack.toNat * n) envMax
  · obtain ⟨v, hv, hline⟩ := attackBlock_below hbelow
    rw [← envBlock_attack n ht hst hr] at hline
    obtain ⟨hstart, hstep, hframe⟩ := line_of_eq_rampBlock hline
    refine ⟨hstart, hstep, hframe, fun _ => ⟨hline ▸ hv, hline ▸ hst, ?step⟩, fun htop => absurd htop hbelow.not_ge⟩
    case step =>
      have hrate := rampTo_step_of_mul hn x.envValue.toNat x.rateAttack.toNat
      rw [hline, rampBlock, hv]
      exact_mod_cast hrate
  · obtain ⟨v, b, hmove, hline⟩ := attackBlock_crossing hs htop
    rw [← envBlock_attack n ht hst hr] at hline
    obtain ⟨hstart, hstep, hframe⟩ := line_of_eq_rampBlock hline
    refine ⟨hstart, hstep, hframe, fun hbelow => absurd htop hbelow.not_ge, fun _ k hk => ?crossing⟩
    case crossing =>
      have hk : IsAttackTime x k := hk
      rw [hk.eq_attackTime he] at hmove
      rw [hline]
      refine ⟨hk.le htop, ?_, decayEnd_cases b⟩
      exact (congrArg (Prod.mk _) (decide_decayEnd b)).trans hmove.symm

/-! ## Release -/

section
variable {n : Nat} {x : Voice}

theorem releaseBlock_ends (h : x.envValue.toNat ≤ x.rateRelease.toNat * n) :
    releaseBlock n x = (rampTo x.envValue.toNat 0 n, x.enterIdle) := if_pos h

theorem releaseBlock_above (h : x.rateRelease.toNat * n < x.envValue.toNat) :
    ∃ v : BitVec 29, v.toNat = x.envValue.toNat - x.rateRelease.toNat * n ∧
      releaseBlock n x = rampBlock n x v x.envState := by
  obtain ⟨v, hv⟩ : ∃ v : BitVec 29, v.toNat = x.envValue.toNat - x.rateRelease.toNat * n :=
    ⟨.ofNatLT _ (by omega), rfl⟩
  exact ⟨v, hv, (if_neg (by omega)).trans (rampBlock_of_toNat (by omega))⟩

end

/-- Settles O45: a block that reaches 0 ends the voice; else it is one line to the value left. (The model has
a function `releaseBlock`.) -/
theorem releaseBlock_spec : Obligations.ReleaseBlock := by
  unfold Obligations.ReleaseBlock
  intro n x _ ht hst hr
  obtain hend | habove := le_or_gt x.envValue.toNat (x.rateRelease.toNat * n)
  · rw [envBlock_release n ht hst hr, releaseBlock_ends hend]
    exact ⟨rfl, rfl, fun _ => rfl, fun habove => absurd hend habove.not_ge⟩
  · obtain ⟨v, hv, hline⟩ := releaseBlock_above habove
    rw [← envBlock_release n ht hst hr] at hline
    obtain ⟨hstart, hstep, -⟩ := line_of_eq_rampBlock hline
    exact ⟨hstart, hstep, fun hend => absurd hend habove.not_ge, fun _ => ⟨v, hv, hline ▸ rfl⟩⟩

end Sys2Proof.Machine
end

section
/-! PROOFS. The phase accumulator (`41_phase_accumulator.md` R131 to R144), what it shares with the wavetable and
tracker oscillators (`42_wavetable_oscillator.md` R153, `47_arpeggio_and_instruments.md` R246 to R248; `20_memory.md`
R65, R69) and the conversion of a duration to ticks (`45_lfo_modulator.md` R207). -/

namespace Sys2Proof.Machine

/-! ## Frequency and increment -/

theorem inc_toNat (fs : Nat) (f : Word) : (inc fs f).toNat = f.toNat * 4294967296 / (fs * 100) % 4294967296 :=
  BitVec.toNat_ofNat ..

section
variable {fs : Nat} {f : Word}

/-- Below the sample rate the quotient fits the word. -/
theorem inc_toNat_of_lt (hf : f.toNat < fs * 100) : (inc fs f).toNat = f.toNat * 4294967296 / (fs * 100) := by
  rw [inc_toNat, Nat.mod_eq_of_lt]
  exact Nat.div_lt_of_lt_mul (Nat.mul_lt_mul_of_pos_right hf (by decide))

/-- An increment is a share below 1 of the cycle, so it stands for less than the sample rate. -/
theorem freqFromInc_toNat (hfs : 1 ≤ fs) (hmax : fs * 100 < 4294967296) (i : Word) :
    (freqFromInc fs i).toNat = i.toNat * fs * 100 / 4294967296 ∧ (freqFromInc fs i).toNat < fs * 100 := by
  have hlt : i.toNat * fs * 100 / 4294967296 < fs * 100 := by
    rw [Nat.mul_assoc]
    exact Nat.div_lt_of_lt_mul (Nat.mul_lt_mul_of_pos_right i.isLt (by omega))
  rw [freqFromInc, BitVec.toNat_ofNat, Nat.shiftRight_eq_div_pow, Nat.mod_eq_of_lt (hlt.trans hmax)]
  exact ⟨rfl, hlt⟩

/-- The remainder lost in the increment is below `fs * 100`, so it costs less than one unit of frequency (R132). -/
theorem freqFromInc_inc (hmax : fs * 100 < 4294967296) (hf : f.toNat < fs * 100) :
    f.toNat ≤ (freqFromInc fs (inc fs f)).toNat + 1 ∧ (freqFromInc fs (inc fs f)).toNat ≤ f.toNat := by
  obtain ⟨hfreq, -⟩ := freqFromInc_toNat (fs := fs) (by omega) hmax (inc fs f)
  rw [inc_toNat_of_lt hf, Nat.mul_assoc] at hfreq
  have hdiv := Nat.div_add_mod' (f.toNat * 4294967296) (fs * 100)
  have hrem := Nat.mod_lt (f.toNat * 4294967296) (show fs * 100 > 0 by omega)
  omega

end

/-! ## Duration and ticks -/

section
variable {rate : Word} {ms : Nat}

theorem ticksFromMs_eq_zero_iff (hr : 1 ≤ rate.toNat) : ticksFromMs rate ms = 0 ↔ ms = 0 := by
  have hcdiv : cdiv (ms * rate.toNat) 1000 ≤ 0 ↔ ms * rate.toNat ≤ 1000 * 0 := cdiv_le_iff (by decide)
  have hprod : ms * rate.toNat = 0 ↔ ms = 0 := by
    rw [Nat.mul_eq_zero]
    omega
  unfold ticksFromMs
  omega

/-- Rounding up adds less than one tick, and the saturation only lowers the count. -/
theorem ticksFromMs_lt (rate : Word) (ms : Nat) : 1000 * ticksFromMs rate ms < ms * rate.toNat + 1000 := by
  unfold ticksFromMs cdiv
  omega

theorem le_ticksFromMs (h : ms * rate.toNat ≤ 1000 * 4294967295) : ms * rate.toNat ≤ 1000 * ticksFromMs rate ms := by
  unfold ticksFromMs cdiv
  omega

theorem ticksFromMs_saturated (h : 1000 * 4294967295 < ms * rate.toNat) : ticksFromMs rate ms = 4294967295 := by
  unfold ticksFromMs cdiv
  omega

end

/-- Settles O28: the increment and the tick count are quotients rounded one way, and a rounding loses less than the
divisor. -/
theorem unitConversions : Obligations.UnitConversions := by
  unfold Obligations.UnitConversions
  exact ⟨fun fs f hfs hmax => ⟨inc_toNat fs f, freqFromInc_toNat hfs hmax, freqFromInc_inc hmax⟩,
    fun rate ms hr => ⟨ticksFromMs_eq_zero_iff hr, ticksFromMs_le rate ms, ticksFromMs_lt rate ms, le_ticksFromMs,
      ticksFromMs_saturated⟩⟩

/-! ## The phase-driven renderers -/

/-- Entry i takes the sample at the phase advanced i steps (R134, R144). -/
theorem renderPhase_get (sample : Word → Int) (r : Ramp) (x : Voice) {mix : List Word} {i : Nat} {m : Word}
    (h : mix[i]? = some m) : (renderPhase sample r x mix).1[i]? =
      some (mixAdd m (sample (x.phase + BitVec.ofNat 32 i * x.effInc)) x.gain (r.env i)) := by
  rw [renderPhase, phaseLoop_get _ _ _ _ h, Nat.zero_add]

/-- Settles O47: the three renderers are one loop, each with a sample function of its own. -/
theorem phaseRenderers : Obligations.PhaseRenderers := by
  unfold Obligations.PhaseRenderers
  rintro c r x mix _ sample (⟨rfl, rfl⟩ | ⟨rfl, rfl⟩ | ⟨rfl, rfl⟩)
  case inl | inr.inl | inr.inr =>
    exact ⟨renderPhase_voice _ r x mix, renderPhase_length _ r x mix, fun _ _ h => renderPhase_get _ r x h⟩

/-! ## The value of a sample -/

section
variable (c : Ctx)

theorem romWord_of_getElem? {i : Nat} {row : List Word} {w : Word} (hrow : c.sineRom[i / 64]? = some row)
    (hw : row[i % 64]? = some w) : romWord c i = w.toInt := by
  simp only [romWord, List.getD_eq_getElem?_getD, hrow, hw, Option.getD_some]

theorem Voice.gain_eq (x : Voice) : x.gain =
    (if x.trkAddr ≠ 0 then x.volume.toNat * x.trkVol.toNat / 256 else x.volume.toNat) * x.tremGain.toNat / 256 := by
  rw [Voice.gain, Voice.loudness, Nat.shiftRight_eq_div_pow, Nat.shiftRight_eq_div_pow]

theorem saw_eq (p : Word) :
    saw p = if p.toNat / 65536 < 32768 then (p.toNat / 65536 : Int) else p.toNat / 65536 - 65536 := by
  rw [saw, Nat.shiftRight_eq_div_pow, s16_eq (Nat.div_lt_of_lt_mul p.isLt)]
  exact_mod_cast rfl

theorem sine_eq (p : Word) : sine c p = romWord c (p.toNat / 1048576) / 65536 := by
  rw [sine, Nat.shiftRight_eq_div_pow]
  rfl

theorem contribution_eq (s e : Int) (g : Nat) : contribution s g e = s * g * (e / 1048576) / 65536 := rfl

/-! ### A wavetable element, by depth -/

section
variable {e : WtEntry} (k : Nat)

theorem wtElem_depth_16 (hd : e.depth = 16) : wtElem c e k =
    if memRead c.mem (e.base.toNat + 2 * k) 2 < 32768 then (memRead c.mem (e.base.toNat + 2 * k) 2 : Int)
    else memRead c.mem (e.base.toNat + 2 * k) 2 - 65536 :=
  (if_pos hd).trans (s16_eq (memRead_lt c.mem _ 2))

theorem wtElem_depth_8 (hd : e.depth = 8) :
    wtElem c e k = ((memRead c.mem (e.base.toNat + k) 1 : Int) - 128) * 256 := by
  rw [wtElem, hd, if_neg (by decide), if_pos rfl]

theorem wtElem_depth_4 (hd : e.depth = 4) : wtElem c e k =
    ((nibbleOf c.nibbleOrder (memRead c.mem (e.base.toNat + k / 2) 1) k : Int) - 8) * 4096 := by
  rw [wtElem, hd, if_neg (by decide), if_neg (by decide), Nat.shiftRight_eq_div_pow]

end

/-! ### A tracker's waveform code -/

theorem shapeOfCode_of_ge {k : Nat} (h : 4 ≤ k) : shapeOfCode k = none := by
  obtain ⟨j, rfl⟩ := Nat.exists_eq_add_of_le' h
  rfl

section
variable {code : Half} (p pw : Word)

/-- The negative code `-1 - k` is the basic shape of code k, silence where there is none (R246). -/
theorem srcSample_of_neg {k : Nat} (h : code.toInt = -1 - k) :
    srcSample c code p pw = (shapeOfCode k).elim 0 (fun shape => basicSample c shape p pw) := by
  rw [srcSample, if_pos (by omega), show (-code.toInt - 1).toNat = k by omega]
  cases shapeOfCode k with
  | none => rfl
  | some shape => rfl

theorem srcSample_of_lt (h : code.toInt < -4) : srcSample c code p pw = 0 := by
  obtain ⟨k, hk⟩ : ∃ k : Nat, code.toInt = -1 - k := ⟨(-code.toInt - 1).toNat, by omega⟩
  rw [srcSample_of_neg c p pw hk, shapeOfCode_of_ge (by omega), Option.elim_none]

theorem srcSample_of_nonneg (h : 0 ≤ code.toInt) : srcSample c code p pw = wtSample c code.toNat p :=
  if_neg (Int.not_lt.mpr h)

end

/-! ### The crossfade -/

section
variable {x : Voice} (p : Word)

theorem trkSample_of_morph_zero (h : x.trkMorph = 0) : trkSample c x p = srcSample c x.trkCur p x.pulseWidth := by
  rw [trkSample, h]
  rfl

theorem trkSample_of_morph (h : x.trkMorph ≠ 0) : trkSample c x p =
    (srcSample c x.trkCur p x.pulseWidth * (256 - x.trkMorph.toNat) +
      srcSample c x.trkNext p x.pulseWidth * x.trkMorph.toNat) / 256 := by
  have hm : (x.trkMorph.toNat : Int) ≠ 0 := fun h0 => h (BitVec.eq_of_toNat_eq (Int.ofNat.inj h0))
  exact if_neg hm

end

end

/-- Settles O50: each value by its equation, with shifts as quotients and 16-bit readings by sign; the crossfade's range
is that of `trkSample_range`. -/
theorem sampleValues : Obligations.SampleValues := by
  unfold Obligations.SampleValues
  refine ⟨fun c _ _ _ => romWord_of_getElem? c, Voice.gain_eq, ?shapes, ?elements, ?codes, ?crossfade, contribution_eq⟩
  case shapes =>
    intro c p pw s hs
    obtain rfl : saw p = s := (saw_eq p).trans hs.symm
    exact ⟨rfl, sine_eq c p, rfl, rfl⟩
  case elements =>
    rintro c e k _ _ _ _ rfl rfl rfl rfl
    refine ⟨wtElem_depth_16 c k, wtElem_depth_8 c k, fun hd ho => ?lowFirst, fun hd ho => ?highFirst⟩
    case lowFirst => rw [wtElem_depth_4 c k hd, ho, nibbleOf]
    case highFirst => rw [wtElem_depth_4 c k hd, ho, nibbleOf]
  case codes =>
    exact fun c _ p pw => ⟨srcSample_of_neg c p pw (k := 0), srcSample_of_neg c p pw (k := 1),
      srcSample_of_neg c p pw (k := 2), srcSample_of_neg c p pw (k := 3), srcSample_of_lt c p pw,
      srcSample_of_nonneg c p pw⟩
  case crossfade =>
    rintro c x p _ _ rfl rfl
    exact ⟨trkSample_of_morph_zero c p, trkSample_of_morph c p, trkSample_range c x p⟩

end Sys2Proof.Machine
end

section
/-! PROOFS. The wavetable oscillator (`42_wavetable_oscillator.md` R150, R151, R154) and what a missing wavetable or
sample does to a block (`20_memory.md` R67; `43_sample_playback_oscillator.md` R175). -/

namespace Sys2Proof.Machine

/-! ## The index of a phase -/

section
variable (p : Word)

theorem wtIndex_eq (size : Nat) : wtIndex p size = p.toNat * size / 4294967296 := Nat.shiftRight_eq_div_pow ..

/-- A phase is less than a whole cycle, so its share of the table is less than the whole table (R150). -/
theorem wtIndex_lt {size : Nat} (h : 1 ≤ size) : wtIndex p size < size := by
  rw [wtIndex_eq]
  exact Nat.div_lt_of_lt_mul (Nat.mul_lt_mul_of_pos_right p.isLt h)

end

/-! ## The sample of an id -/

section
variable {c : Ctx} {id : Nat}

theorem wtSample_of_entry {e : WtEntry} (h : wtEntry? c id = some e) (p : Word) :
    wtSample c id p = wtElem c e (wtIndex p e.size.toNat) := by
  rw [wtSample, h]

theorem wtSample_of_missing (h : wtEntry? c id = none) (p : Word) : wtSample c id p = 0 := by
  rw [wtSample, h]

theorem wtSample_range (c : Ctx) (id : Nat) (p : Word) : -32768 ≤ wtSample c id p ∧ wtSample c id p ≤ 32767 := by
  cases h : wtEntry? c id with
  | none => simp [wtSample_of_missing h]
  | some e =>
    rw [wtSample_of_entry h]
    exact wtElem_range ..

end

/-- Settles O48: the index is a quotient below the size, and a sample is 0 or an element, whose range is that of
`wtElem_range`. -/
theorem wavetableIndex : Obligations.WavetableIndex := by
  unfold Obligations.WavetableIndex
  exact fun c id p size hsize _ => ⟨wtIndex_lt p hsize, wtIndex_eq p size,
    fun _ he hvalid hbase hsize => wtSample_of_entry (wtEntry?_registered he hvalid hbase hsize) p,
    fun hmissing => wtSample_of_missing (wtEntry?_missing hmissing) p, wtSample_range c id p⟩

/-! ## A block of silence -/

theorem mixAdd_zero (m : Word) (g : Nat) (e : Int) : mixAdd m 0 g e = m := by
  rw [mixAdd, contribution_zero, Int.add_zero, u32, BitVec.ofInt_toInt]

section
variable {sample : Word → Int} (hsilent : ∀ p, sample p = 0)
include hsilent

theorem phaseLoop_mix_of_silent (step : Word) (g : Nat) (r : Ramp) (mix : List Word) (i : Nat) (p : Word) :
    (phaseLoop sample step g r mix i p).1 = mix := by
  induction mix generalizing i p with
  | nil => rfl
  | cons m ms ih => simp only [phaseLoop, hsilent, mixAdd_zero, ih]

/-- Silence leaves the mix, and the phase still advances one step a sample (R154). -/
theorem renderPhase_of_silent (r : Ramp) (x : Voice) (mix : List Word) : renderPhase sample r x mix =
    (mix, { x with phase := x.phase + BitVec.ofNat 32 mix.length * x.effInc }) :=
  Prod.ext (phaseLoop_mix_of_silent hsilent ..) (renderPhase_voice ..)

end

/-! ## Missing data -/

/-- An id with no entry, or whose entry is not valid or has no base or no length, is missing (`20_memory.md` R67). -/
theorem smpEntry?_missing {c : Ctx} {id : Nat}
    (h : ∀ e, c.sreg[id]? = some e → e.valid = false ∨ e.base = 0 ∨ e.length = 0) : smpEntry? c id = none := by
  cases he : c.sreg[id]? with
  | none => rw [smpEntry?, he]
  | some e =>
    rw [smpEntry?, he]
    exact if_pos (h e he)

/-- Finished or not, a voice whose sample is missing stays where it is (R175). -/
theorem renderSample_of_missing {c : Ctx} {x : Voice} (h : smpEntry? c x.smpId.toNat = none) (r : Ramp)
    (mix : List Word) : renderSample c r x mix = (mix, x) := by
  rw [renderSample, h]
  exact ite_self _

/-- Settles O55: a missing wavetable is silence to the phase loop, and a missing sample is not played at all. -/
theorem missingDataIsSilent : Obligations.MissingDataIsSilent := by
  unfold Obligations.MissingDataIsSilent
  exact fun c r x mix =>
    ⟨fun hwt => renderPhase_of_silent (wtSample_of_missing (wtEntry?_missing hwt)) r x mix,
      fun hsmp => renderSample_of_missing (smpEntry?_missing hsmp) r mix⟩

end Sys2Proof.Machine
end

section
/-! PROOFS. The sample oscillator from its start to its end (`43_sample_playback_oscillator.md` R168, R169, R174, R176,
R177): what the start of a sample writes, the move in loop mode Off, and the block of a registered sample. -/

namespace Sys2Proof.Machine

/-! ## The start of a sample -/

section
variable {c : Ctx} {x : Voice}

theorem clampLoopEnd_loopEnd_of_valid {e : SmpEntry} (he : c.sreg[x.smpId.toNat]? = some e) (hv : e.valid = true) :
    (clampLoopEnd c x).loopEnd = if x.loopEnd = 0 ∨ e.length.toNat < x.loopEnd.toNat then e.length else x.loopEnd := by
  simp only [clampLoopEnd, he, hv, true_and]
  split <;> rfl

theorem clampLoopEnd_loopEnd_of_unregistered (h : ∀ e, c.sreg[x.smpId.toNat]? = some e → e.valid = false) :
    (clampLoopEnd c x).loopEnd = x.loopEnd := by
  cases he : c.sreg[x.smpId.toNat]? with
  | none => simp only [clampLoopEnd, he]
  | some e => simp [clampLoopEnd, he, h e he]

/-- A registered sample bounds the loop end (R176, R344). -/
theorem clampLoopEnd_le_length {e : SmpEntry} (he : c.sreg[x.smpId.toNat]? = some e) (hv : e.valid = true) :
    (clampLoopEnd c x).loopEnd.toNat ≤ e.length.toNat := by
  rw [clampLoopEnd_loopEnd_of_valid he hv]
  split <;> omega

end

section
variable (c : Ctx) (x : Voice)

theorem clampLoopEnd_eq : clampLoopEnd c x = { x with loopEnd := (clampLoopEnd c x).loopEnd } := by
  unfold clampLoopEnd
  split
  · rfl
  · split <;> rfl

theorem resetLoopStart_eq : resetLoopStart x =
    { x with loopStart := if x.loopStart.toNat < x.loopEnd.toNat then x.loopStart else 0 } := by
  by_cases h : x.loopStart.toNat < x.loopEnd.toNat
  · rw [resetLoopStart, if_neg (Nat.not_le.mpr h), if_pos h]
  · rw [resetLoopStart, if_pos (Nat.not_lt.mp h), if_neg h]

theorem startHead_eq : startHead x = { x with
    smpDir := if x.loopMode = .reverse then .backward else .forward
    smpPos := if x.loopMode = .reverse then BitVec.ofNat 64 x.loopTop else 0 } := by
  by_cases h : x.loopMode = .reverse
  · rw [startHead, if_pos h, if_pos h, if_pos h]
  · rw [startHead, if_neg h, if_neg h, if_neg h]

/-- The three steps of the start in one: the later steps read the clamped loop end (R176). -/
theorem sampleStart_eq : sampleStart c x = { x with
    loopEnd := (clampLoopEnd c x).loopEnd
    loopStart := if x.loopStart.toNat < (clampLoopEnd c x).loopEnd.toNat then x.loopStart else 0
    smpDir := if x.loopMode = .reverse then .backward else .forward
    smpPos := if x.loopMode = .reverse then BitVec.ofNat 64 (clampLoopEnd c x).loopTop else 0 } := by
  rw [sampleStart, startHead_eq, resetLoopStart_eq, clampLoopEnd_eq]
  rfl

end

/-- Settles O54: the loop end is the clamped one, the loop start is kept only below it, and the loop mode places the
head. -/
theorem sampleStartClamps : Obligations.SampleStartClamps := by
  unfold Obligations.SampleStartClamps
  rintro c x _ rfl
  rw [sampleStart_eq]
  refine ⟨rfl, fun e he hv => ⟨clampLoopEnd_loopEnd_of_valid he hv, clampLoopEnd_le_length he hv⟩,
    clampLoopEnd_loopEnd_of_unregistered, rfl, fun hend => ?startBelowEnd, fun hm => ⟨if_neg hm, if_neg hm⟩,
    fun hm => ⟨if_pos hm, ?lastSample⟩⟩
  case startBelowEnd =>
    dsimp only at hend ⊢
    split
    next hlt => exact hlt
    next => exact Nat.pos_of_ne_zero (BitVec.toNat_ne.mp hend)
  case lastSample =>
    dsimp only
    rw [if_pos hm, Voice.toNat_loopTop]

/-! ## The move in loop mode Off -/

section
variable {x : Voice} {length sinc : Nat} {h : PlayHead}

theorem sampleStep_off_inside (hm : x.loopMode = .off) (hl : length < 4294967296)
    (hin : h.pos.toNat + sinc < length * 65536) :
    ∃ pos : BitVec 64, pos.toNat = h.pos.toNat + sinc ∧ sampleStep x length sinc h = { h with pos := pos } := by
  refine ⟨BitVec.ofNat 64 (h.pos.toNat + sinc), ?_, ?_⟩
  · rw [BitVec.toNat_ofNat, Nat.mod_eq_of_lt (by omega)]
  · simp only [sampleStep, hm, Nat.shiftLeft_eq]
    exact if_neg (Nat.not_le.mpr hin)

theorem sampleStep_off_end (hm : x.loopMode = .off) (hl : length < 4294967296)
    (hout : length * 65536 ≤ h.pos.toNat + sinc) :
    ∃ pos : BitVec 64, pos.toNat = length * 65536 ∧
      sampleStep x length sinc h = { h with pos := pos, ended := true } := by
  refine ⟨BitVec.ofNat 64 (length * 65536), ?_, ?_⟩
  · rw [BitVec.toNat_ofNat, Nat.mod_eq_of_lt (by omega)]
  · simp only [sampleStep, hm, Nat.shiftLeft_eq]
    exact if_pos hout

end

/-! ## The block of a registered sample -/

/-- A finished voice does nothing (R174). -/
theorem renderSample_of_finished {x : Voice} (hf : x.smpFinished = true) (c : Ctx) (r : Ramp) (mix : List Word) :
    renderSample c r x mix = (mix, x) := if_pos hf

/-- The last sample added is the one at the head whose move ends the voice (R169). -/
theorem sampleLoop_of_step_ends (c : Ctx) {e : SmpEntry} {x : Voice} {sinc : Nat} {h : PlayHead}
    (he : h.ended = false) (hend : (sampleStep x e.length.toNat sinc h).ended = true)
    (r : Ramp) (m : Word) (ms : List Word) (i : Nat) : sampleLoop c e x sinc r (m :: ms) i h =
      (mixAdd m (sampleFetch c e h.pos) x.gain (r.env i) :: ms, sampleStep x e.length.toNat sinc h) := by
  rw [sampleLoop, if_neg (ne_true_of_eq_false he), sampleLoop_ended _ _ _ _ _ _ _ hend]

section
variable {c : Ctx} {e : SmpEntry} {x : Voice} {head : Nat → PlayHead} (hentry : smpEntry? c x.smpId.toNat = some e)
  (hstart : head 0 = { pos := x.smpPos, dir := x.smpDir, ended := false })
  (hstep : ∀ k, head (k + 1) = sampleStep x e.length.toNat (sampleInc c e x).toNat (head k))
  (hf : x.smpFinished = false)
include hentry hstart hf

theorem renderSample_of_entry (r : Ramp) (mix : List Word) : renderSample c r x mix =
    ((sampleLoop c e x (sampleInc c e x).toNat r mix 0 (head 0)).1,
      x.withHead (sampleLoop c e x (sampleInc c e x).toNat r mix 0 (head 0)).2) := by
  simp only [renderSample, hf, hentry, hstart, Bool.false_eq_true, if_false]

include hstep

/-- The block leaves the voice with the head after its last step (R177). -/
theorem renderSample_voice (r : Ramp) (mix : List Word) :
    (renderSample c r x mix).2 = x.withHead (head mix.length) := by
  obtain ⟨hlast, -⟩ := sampleLoop_heads c r hstep (fun he => by simp [hstart] at he) mix 0
  rw [renderSample_of_entry hentry hstart hf, hlast, Nat.zero_add]

/-- Mix entry i takes the fetch at the head after i steps, until the voice ends (R168, R169). -/
theorem renderSample_get (r : Ramp) {mix : List Word} {i : Nat} {m : Word} (hi : mix[i]? = some m) :
    (renderSample c r x mix).1[i]? = some (if (head i).ended then m
      else mixAdd m (sampleFetch c e (head i).pos) x.gain (r.env i)) := by
  obtain ⟨-, hadded⟩ := sampleLoop_heads c r hstep (fun he => by simp [hstart] at he) mix 0
  rw [renderSample_of_entry hentry hstart hf, hadded i m hi, Nat.zero_add]

end

/-- Settles O53: the loop visits the heads one step apart; in loop mode Off a step that reaches the end of the sample
ends the voice after the fetch at the head it left. -/
theorem offModeEndsVoice : Obligations.OffModeEndsVoice := by
  unfold Obligations.OffModeEndsVoice
  refine ⟨?block, ?off⟩
  case block =>
    intro c e x r mix head he hv hb hl hstart hstep
    have hentry := smpEntry?_registered he hv hb hl
    refine ⟨fun hf => renderSample_of_finished hf c r mix, fun hf => ?_⟩
    have hvoice := (renderSample_voice hentry hstart hstep hf r mix).trans (withHead_eq ..)
    refine ⟨renderSample_length .., fun i m hi => ?entry, fun hplays => ?plays, fun hended => ?ended⟩
    case entry =>
      have hget := renderSample_get hentry hstart hstep hf r hi
      exact ⟨fun hplays => by rwa [hplays] at hget, fun hended => by rwa [hended] at hget⟩
    case plays => rwa [hplays] at hvoice
    case ended => rwa [hended] at hvoice
  case off =>
    intro c e x sinc r m ms i h hm he
    refine ⟨sampleStep_off_inside hm e.length.isLt, fun hout => ?_⟩
    obtain ⟨pos, hpos, hmove⟩ := sampleStep_off_end hm e.length.isLt hout
    have hloop := sampleLoop_of_step_ends c he (by rw [hmove]) r m ms i
    rw [hmove] at hloop
    exact ⟨pos, hpos, hloop, withHead_eq ..⟩

end Sys2Proof.Machine
end

section
/-! PROOFS. The noise oscillator (`44_noise_oscillator.md` R191 to R193): the carry of the phase as a quotient, and the
phases, seeds and mix entries of a block. -/

namespace Sys2Proof.Machine

/-! ## The clock -/

/-- The phase advanced i steps (R191). -/
def phaseAfter (p step : Word) (i : Nat) : Word := p + BitVec.ofNat 32 i * step

section
variable (p step : Word) (i : Nat)

theorem phaseAfter_zero : phaseAfter p step 0 = p := by simp [phaseAfter]

theorem phaseAfter_succ : phaseAfter p step (i + 1) = phaseAfter p step i + step := by
  rw [phaseAfter, phaseAfter, BitVec.ofNat_add, BitVec.add_mul, BitVec.add_assoc,
    show BitVec.ofNat 32 1 * step = step from BitVec.one_mul step]

theorem phaseAfter_toNat : (phaseAfter p step i).toNat = (p.toNat + i * step.toNat) % 4294967296 := by
  simp [phaseAfter]

/-- The phase is the remainder of the plain sum by 2^32, so a step carries exactly where the quotient grows (R191). -/
theorem carries_succ : (p.toNat + (i + 1) * step.toNat) / 4294967296 =
    (p.toNat + i * step.toNat) / 4294967296 + if noiseClock (phaseAfter p step i) step then 1 else 0 := by
  have hstep : step.toNat < 4294967296 := step.isLt
  rw [Nat.add_one_mul, ← Nat.add_assoc, Nat.add_div (by decide), Nat.div_eq_of_lt hstep, Nat.mod_eq_of_lt hstep,
    ← phaseAfter_toNat]
  simp only [noiseClock, decide_eq_true_eq, Nat.add_zero]

end

/-- The held sample is the upper half of the seed, signed (R193). -/
theorem noiseSample_eq (seed : Word) : noiseSample seed = (BitVec.ofNat 16 (seed.toNat / 65536)).toInt := by
  rw [noiseSample, s16, Nat.shiftRight_eq_div_pow]

/-! ## The block, for the seeds `held` one sample apart -/

section
variable {p step : Word} {held : Nat → Word}
  (hheld : ∀ k, held (k + 1) = if noiseClock (phaseAfter p step k) step then noiseNext (held k) else held k)
  (g : Nat) (r : Ramp)
include hheld

theorem noiseLoop_cons_held (m : Word) (ms : List Word) (i : Nat) :
    noiseLoop step g r (m :: ms) i (phaseAfter p step i) (held i) =
      (mixAdd m (noiseSample (held i)) g (r.env i) ::
          (noiseLoop step g r ms (i + 1) (phaseAfter p step (i + 1)) (held (i + 1))).1,
        (noiseLoop step g r ms (i + 1) (phaseAfter p step (i + 1)) (held (i + 1))).2) := by
  rw [noiseLoop, phaseAfter_succ, hheld]

/-- A block leaves the phase and the seed after its last step. -/
theorem noiseLoop_last (mix : List Word) (i : Nat) :
    (noiseLoop step g r mix i (phaseAfter p step i) (held i)).2 =
      (phaseAfter p step (i + mix.length), held (i + mix.length)) := by
  induction mix generalizing i with
  | nil => rfl
  | cons m ms ih =>
    rw [noiseLoop_cons_held hheld, List.length_cons, Nat.add_comm ms.length 1, ← Nat.add_assoc]
    exact ih (i + 1)

/-- Mix entry k takes the sample held after k steps: the output comes before the clock (R193). -/
theorem noiseLoop_get {mix : List Word} {k : Nat} {m : Word} (h : mix[k]? = some m) (i : Nat) :
    (noiseLoop step g r mix i (phaseAfter p step i) (held i)).1[k]? =
      some (mixAdd m (noiseSample (held (i + k))) g (r.env (i + k))) := by
  induction mix generalizing i k with
  | nil => cases h
  | cons m' ms ih =>
    rw [noiseLoop_cons_held hheld]
    cases k with
    | zero =>
      obtain rfl : m' = m := Option.some.inj h
      rfl
    | succ k => rw [List.getElem?_cons_succ, ih h, Nat.add_right_comm, Nat.add_assoc]

end

section
variable {x : Voice} {held : Nat → Word} (hstart : held 0 = x.noiseSeed)
  (hheld : ∀ k, held (k + 1) =
    if noiseClock (phaseAfter x.phase x.phaseInc k) x.phaseInc then noiseNext (held k) else held k)
  (r : Ramp)
include hstart hheld

theorem renderNoise_voice (mix : List Word) : (renderNoise r x mix).2 =
    { x with phase := phaseAfter x.phase x.phaseInc mix.length, noiseSeed := held mix.length } := by
  have hlast := noiseLoop_last hheld x.gain r mix 0
  rw [phaseAfter_zero, hstart, Nat.zero_add] at hlast
  rw [renderNoise, hlast]

theorem renderNoise_get {mix : List Word} {i : Nat} {m : Word} (h : mix[i]? = some m) :
    (renderNoise r x mix).1[i]? = some (mixAdd m (noiseSample (held i)) x.gain (r.env i)) := by
  have hget := noiseLoop_get hheld x.gain r h 0
  rwa [phaseAfter_zero, hstart, Nat.zero_add] at hget

end

/-- Settles O49: the seeds held along a block are the generator's seeds at the counts of carries, which grow where the
clock ticks. -/
theorem noiseClockedByCarry : Obligations.NoiseClockedByCarry := by
  unfold Obligations.NoiseClockedByCarry
  intro r x mix clocks seed hclocks hseed hnext
  have hstart : seed (clocks 0) = x.noiseSeed := by
    rw [hclocks 0, Nat.zero_mul, Nat.add_zero, Nat.div_eq_of_lt x.phase.isLt, hseed]
  have hheld : ∀ k, seed (clocks (k + 1)) = if noiseClock (phaseAfter x.phase x.phaseInc k) x.phaseInc
      then noiseNext (seed (clocks k)) else seed (clocks k) := by
    intro k
    rw [hclocks (k + 1), carries_succ, ← hclocks k]
    cases noiseClock (phaseAfter x.phase x.phaseInc k) x.phaseInc with
    | false => rfl
    | true => exact hnext (clocks k)
  refine ⟨renderNoise_voice (held := seed ∘ clocks) hstart hheld r mix, noiseLoop_length .., fun i m h => ?entry⟩
  case entry =>
    rw [← noiseSample_eq]
    exact renderNoise_get (held := seed ∘ clocks) hstart hheld r h

end Sys2Proof.Machine
end

section
/-! PROOFS. The scheduler and the two LFO ticks (`45_lfo_modulator.md` R200 to R206). -/

namespace Sys2Proof.Machine

/-! ## The scheduler -/

theorem runScheduler_eq {s : State} (n : Nat) (hi : 1 ≤ s.ctrlInterval.toNat) : runScheduler n s =
    { s with
      voices := (tick s.ctx)^[(s.ctrlCounter.toNat + n) / s.ctrlInterval.toNat] s.voices,
      ctrlCounter := BitVec.ofNat 32 ((s.ctrlCounter.toNat + n) % s.ctrlInterval.toNat) } := by
  rw [runScheduler, tickLoop_eq s.ctx hi _ _ _ le_rfl]

theorem runScheduler_ctrlCounter_toNat {s : State} (n : Nat) (hi : 1 ≤ s.ctrlInterval.toNat) :
    (runScheduler n s).ctrlCounter.toNat = (s.ctrlCounter.toNat + n) % s.ctrlInterval.toNat := by
  rw [runScheduler_eq n hi, BitVec.toNat_ofNat]
  exact Nat.mod_eq_of_lt ((Nat.mod_lt _ hi).trans s.ctrlInterval.isLt)

theorem tickVoice_active (c : Ctx) {x : Voice} (h : x.active = true) :
    tickVoice c x = trackerTick c (glideTick c (arpTick c (tremoloTick c (vibratoTick c x)))) := if_pos h

theorem tick_getElem? (c : Ctx) {voices : List Voice} {j : Nat} {x : Voice} (h : voices[j]? = some x) :
    (tick c voices)[j]? = some (tickVoice c x) := by
  rw [tick, List.getElem?_map, h, Option.map_some]

/-- Settles O35: the loop's closed form gives the ticks and the rest, and the rest is below the interval, so the
counter's width loses none of it. -/
theorem schedulerRunsExactTicks : Obligations.SchedulerRunsExactTicks := by
  unfold Obligations.SchedulerRunsExactTicks
  refine ⟨fun s n hi => ⟨?ticks, runScheduler_ctrlCounter_toNat n hi, ?below⟩,
    fun c voices j x hx => ⟨fun hoff => ?inactive, fun hon => ?active⟩⟩
  case ticks => rw [runScheduler_eq n hi]
  case below =>
    rw [runScheduler_ctrlCounter_toNat n hi]
    exact Nat.mod_lt _ hi
  case inactive => rw [tick_getElem? c hx, tickVoice_inactive c hoff]
  case active => rw [tick_getElem? c hx, tickVoice_active c hon]

/-! ## Vibrato and tremolo -/

theorem lfoSine_eq (c : Ctx) (p : Word) : lfoSine c p = romWord c (p.toNat / 1048576) / 131072 := by
  rw [lfoSine, Nat.shiftRight_eq_div_pow]
  rfl

theorem vibratoTick_eq (c : Ctx) (x : Voice) : vibratoTick c x =
    { x with
      vibPhase := x.vibPhase + x.vibRate,
      vibOffset := BitVec.ofInt 32 (x.vibDepth.toNat * lfoSine c (x.vibPhase + x.vibRate) / 16384) } := rfl

theorem tremoloTick_eq (c : Ctx) (x : Voice) :
    tremoloTick c x =
      { x with tremPhase := x.tremPhase + x.tremRate, tremGain := (tremoloTick c x).tremGain } := rfl

/-- The gain of a tick fits its byte, so storing it loses nothing (R206). -/
theorem tremoloTick_tremGain_toNat (c : Ctx) (x : Voice) : ((tremoloTick c x).tremGain.toNat : Int) =
    255 - x.tremDepth.toNat * (lfoSine c (x.tremPhase + x.tremRate) + 16384) / 32768 := by
  obtain ⟨hlow, hhigh⟩ := tremGain_range c x.tremDepth (x.tremPhase + x.tremRate)
  calc ((tremoloTick c x).tremGain.toNat : Int)
      = (255 - shr (x.tremDepth.toNat * (lfoSine c (x.tremPhase + x.tremRate) + 16384)) 15) % 256 := by
        rw [tremoloTick, u8, BitVec.toNat_ofInt]
        omega
    _ = 255 - shr (x.tremDepth.toNat * (lfoSine c (x.tremPhase + x.tremRate) + 16384)) 15 :=
        Int.emod_eq_of_lt (by omega) (by omega)

theorem tremoloTick_tremGain_pos (c : Ctx) (x : Voice) : 1 ≤ (tremoloTick c x).tremGain.toNat := by
  have hgain := tremoloTick_tremGain_toNat c x
  have hlow : 1 ≤ 255 - x.tremDepth.toNat * (lfoSine c (x.tremPhase + x.tremRate) + 16384) / 32768 :=
    (tremGain_range c x.tremDepth (x.tremPhase + x.tremRate)).1
  omega

/-- Settles O36: each tick is one update of two fields, the sine is the quotient of a ROM word, and the tremolo's gain
stays in its byte for any ROM. -/
theorem lfoTickResults : Obligations.LfoTickResults := by
  unfold Obligations.LfoTickResults
  refine fun c x => ⟨⟨_, rfl, ?vibrato⟩, _, _, rfl, tremoloTick_eq c x, ?gain, tremoloTick_tremGain_pos c x⟩
  case vibrato => rw [vibratoTick_eq, lfoSine_eq]
  case gain => rw [tremoloTick_tremGain_toNat, lfoSine_eq]

end Sys2Proof.Machine
end

section
/-! PROOFS. The pitch glide (`46_pitch_glide_engine.md` R220 to R223): what a setup stores, one glide tick, and the
arrival of a glide by an account of its corrections. -/

namespace Sys2Proof.Machine

/-! ## The setup -/

theorem natAbs_sub_tdiv_mul_lt (d : Int) {t : Nat} (ht : 0 < t) : (d - tdiv d t * t).natAbs < t := by
  have hmod : d - tdiv d t * t = d.tmod t := by rw [Int.tmod_def, Int.mul_comm, tdiv]
  rw [hmod, Int.natAbs_tmod, Int.natAbs_natCast]
  exact Nat.mod_lt _ ht

/-- The difference `GlideSetup` divides among the ticks (R220). -/
def glideSpan (c : Ctx) (startInc endFreq : Word) : Int := (inc c.fs endFreq).toNat - startInc.toNat

section
variable {c : Ctx} {startInc startFreq endFreq ms : Word} {x : Voice} {t : Nat}
  (hticks : ticksFromMs c.ctrlRate ms.toNat = t)
include hticks

theorem glideSetup_of_no_ticks (ht : t = 0) : glideSetup c startInc startFreq endFreq ms x =
    { x with phaseInc := inc c.fs endFreq, freq := endFreq, glideActive := false } :=
  if_pos (hticks.trans ht)

variable (ht : 0 < t)
include ht

theorem glideSetup_of_ticks : glideSetup c startInc startFreq endFreq ms x =
    { x with
      phaseInc := startInc
      freq := startFreq
      glideDelta := BitVec.ofInt 34 (tdiv (glideSpan c startInc endFreq) t)
      glideRem := BitVec.ofInt 34 (glideSpan c startInc endFreq - tdiv (glideSpan c startInc endFreq) t * t)
      glideRemAcc := 0
      glideTarget := inc c.fs endFreq
      glideTicks := BitVec.ofNat 32 t
      glideLeft := BitVec.ofNat 32 t
      glideActive := true } := by
  subst hticks
  exact if_neg ht.ne'

theorem glideSetup_phaseInc : (glideSetup c startInc startFreq endFreq ms x).phaseInc = startInc := by
  rw [glideSetup_of_ticks hticks ht]

theorem glideSetup_glideTicks_toNat : (glideSetup c startInc startFreq endFreq ms x).glideTicks.toNat = t := by
  have hle : t ≤ 4294967295 := hticks ▸ ticksFromMs_le c.ctrlRate ms.toNat
  rw [glideSetup_of_ticks hticks ht, BitVec.toNat_ofNat]
  exact Nat.mod_eq_of_lt (by omega)

/-- The quotient is no longer than the difference of two words, so 34 bits hold it. -/
theorem glideSetup_glideDelta_toInt : (glideSetup c startInc startFreq endFreq ms x).glideDelta.toInt =
    tdiv (glideSpan c startInc endFreq) t := by
  have hquot : (tdiv (glideSpan c startInc endFreq) t).natAbs ≤ (glideSpan c startInc endFreq).natAbs :=
    Int.natAbs_tdiv_le_natAbs _ _
  have hspan : (glideSpan c startInc endFreq).natAbs < 4294967296 := by
    unfold glideSpan
    omega
  rw [glideSetup_of_ticks hticks ht, BitVec.toInt_ofInt]
  exact Int.bmod_eq_of_le (by omega) (by omega)

theorem glideSetup_glideRem_toInt : (glideSetup c startInc startFreq endFreq ms x).glideRem.toInt =
    glideSpan c startInc endFreq - tdiv (glideSpan c startInc endFreq) t * t := by
  have hle : t ≤ 4294967295 := hticks ▸ ticksFromMs_le c.ctrlRate ms.toNat
  rw [glideSetup_of_ticks hticks ht]
  exact glideField_toInt (natAbs_sub_tdiv_mul_lt _ ht) hle

theorem glideSetup_glideRem_lt : (glideSetup c startInc startFreq endFreq ms x).glideRem.toInt.natAbs < t := by
  rw [glideSetup_glideRem_toInt hticks ht]
  exact natAbs_sub_tdiv_mul_lt _ ht

end

/-- GLIDE and GLIDE_TO are one setup of their voice, from two starts (R308, R309). -/
theorem exec_glideSetup {s : State} {v : Byte} {startFreq endFreq ms : Word} {x : Voice} {i : Instr}
    {startInc freq : Word} (hx : s.voices[v.toNat]? = some x)
    (hi : (i = .glide v startFreq endFreq ms ∧ startInc = inc s.fs startFreq ∧ freq = startFreq) ∨
      (i = .glideTo v endFreq ms ∧ startInc = x.phaseInc ∧ freq = x.freq)) :
    exec i s = .next { s with
      voices := s.voices.set v.toNat (glideSetup s.ctx startInc freq endFreq ms x) } := by
  obtain ⟨rfl, rfl, rfl⟩ | ⟨rfl, rfl, rfl⟩ := hi
  · rw [exec_voice s rfl rfl, State.updateVoice_of_some _ hx, voiceEffect]
  · rw [exec_voice s rfl rfl, State.updateVoice_of_some _ hx, voiceEffect]

/-- Settles O26: both commands are the setup of their voice, whose tick count, quotient and remainder fit their
fields. -/
theorem glideSetupResult : Obligations.GlideSetupResult := by
  unfold Obligations.GlideSetupResult
  intro s v startFreq endFreq ms x ticks hx hticks i startInc freq hi
  replace hticks : ticksFromMs s.ctx.ctrlRate ms.toNat = ticks := hticks
  rw [exec_glideSetup hx hi]
  refine ⟨fun h0 => ?jump, fun ht => ⟨_, rfl, ?fields, glideSetup_glideTicks_toNat hticks ht,
    glideSetup_glideDelta_toInt hticks ht, ?rem, glideSetup_glideRem_lt hticks ht⟩⟩
  case jump =>
    rw [glideSetup_of_no_ticks hticks h0]
    rfl
  case fields =>
    rw [glideSetup_of_ticks hticks ht]
    rfl
  case rem =>
    rw [glideSetup_glideRem_toInt hticks ht, glideSetup_glideDelta_toInt hticks ht]
    rfl

/-! ## One tick -/

theorem glideTick_inactive (c : Ctx) {x : Voice} (h : x.glideActive = false) : glideTick c x = x :=
  if_neg (ne_true_of_eq_false h)

theorem glideTick_active (c : Ctx) {x : Voice} (h : x.glideActive = true) {corr : Int × Int} {next left : Word}
    (hcorr : corr = glideCorrection (x.glideRemAcc.toInt + x.glideRem.toInt) x.glideTicks.toNat)
    (hnext : next = BitVec.ofInt 32 (x.phaseInc.toNat + x.glideDelta.toInt + corr.1))
    (hleft : left + 1 = x.glideLeft) : glideTick c x =
      { x with phaseInc := next, freq := freqFromInc c.fs next, glideRemAcc := BitVec.ofInt 34 corr.2,
               glideLeft := left, glideActive := decide (left ≠ 0) } := by
  obtain rfl : x.glideLeft - 1 = left := by rw [← hleft, BitVec.add_sub_cancel]
  subst hcorr hnext
  rw [glideTick, if_pos h]
  simp [u32]

theorem glideCorrection_eq (sum : Int) (t : Nat) : glideCorrection sum t =
    if sum.natAbs < t then (0, sum) else if 0 < sum then (1, sum - t) else (-1, sum + t) := by
  rw [glideCorrection]
  by_cases hlt : sum.natAbs < t
  · rw [if_pos hlt, if_neg (by omega)]
  · rw [if_neg hlt, if_pos (by omega)]

/-- A correction takes its tick count out of the accumulator: nothing of the sum is lost (R222). -/
theorem glideCorrection_conserves (sum : Int) (t : Nat) :
    (glideCorrection sum t).2 + (glideCorrection sum t).1 * t = sum := by
  rw [glideCorrection_eq]
  split
  case isTrue => simp
  case isFalse => split <;> simp

/-! ## The run of a glide -/

theorem ofInt_toNat (x : Word) : BitVec.ofInt 32 x.toNat = x := by
  rw [BitVec.ofInt_natCast, BitVec.ofNat_toNat, BitVec.setWidth_eq]

/-- A word keeps a sum modulo 2^32, whichever part was stored first. -/
theorem ofInt_toNat_ofInt_add (a b : Int) :
    BitVec.ofInt 32 ((BitVec.ofInt 32 a).toNat + b) = BitVec.ofInt 32 (a + b) := by
  rw [BitVec.ofInt_add, ofInt_toNat, BitVec.ofInt_add]

/-- The voice x after k ticks of the glide that y starts. The corrections made so far and the accumulator account for
k remainders. -/
structure Gliding (y : Voice) (k : Nat) (x : Voice) : Prop where
  active : x.glideActive = decide (k < y.glideTicks.toNat)
  left : x.glideLeft.toNat + k = y.glideTicks.toNat
  ticks : x.glideTicks = y.glideTicks
  delta : x.glideDelta = y.glideDelta
  rem : x.glideRem = y.glideRem
  acc_lt : x.glideRemAcc.toInt.natAbs < y.glideTicks.toNat
  account : ∃ corrections : Int,
    x.phaseInc = BitVec.ofInt 32 (y.phaseInc.toNat + k * y.glideDelta.toInt + corrections) ∧
    x.glideRemAcc.toInt + corrections * y.glideTicks.toNat = k * y.glideRem.toInt

section
variable {y x : Voice} {k : Nat}

theorem Gliding.tick (h : Gliding y k x) (hrem_lt : y.glideRem.toInt.natAbs < y.glideTicks.toNat)
    (hk : k < y.glideTicks.toNat) (c : Ctx) : Gliding y (k + 1) (glideTick c x) := by
  obtain ⟨hactive, hleft, hticks, hdelta, hrem, hacc, corrections, hinc, hsum⟩ := h
  obtain ⟨left, hpred⟩ : ∃ left : Word, left + 1 = x.glideLeft := ⟨x.glideLeft - 1, BitVec.sub_add_cancel ..⟩
  have hleft' : left.toNat + (k + 1) = y.glideTicks.toNat := by
    rw [← hpred, BitVec.toNat_add, show (1 : Word).toNat = 1 from rfl] at hleft
    omega
  have hlt := glideCorrection_lt (acc := x.glideRemAcc.toInt + y.glideRem.toInt) (t := y.glideTicks.toNat) (by omega)
  have hconserves := glideCorrection_conserves (x.glideRemAcc.toInt + y.glideRem.toInt) y.glideTicks.toNat
  rw [glideTick_active c (hactive.trans (decide_eq_true hk)) (by rw [hrem, hticks]) rfl hpred]
  generalize glideCorrection (x.glideRemAcc.toInt + y.glideRem.toInt) y.glideTicks.toNat = corr at hlt hconserves ⊢
  have hacc' : (BitVec.ofInt 34 corr.2).toInt = corr.2 := glideField_toInt hlt (by omega)
  refine ⟨?active, hleft', hticks, hdelta, hrem, by rwa [hacc'], corrections + corr.1, ?inc, ?sum⟩
  case active =>
    have hzero : left = 0 ↔ left.toNat = 0 := BitVec.toNat_inj.symm
    simp only [ne_eq, decide_eq_decide, hzero]
    omega
  case inc =>
    dsimp only
    rw [hinc, hdelta, add_assoc, ofInt_toNat_ofInt_add]
    apply congrArg
    push_cast
    ring
  case sum =>
    rw [hacc']
    push_cast
    linarith

theorem Gliding.iterate (h : Gliding y 0 y) {t : Nat} (ht : y.glideTicks.toNat = t)
    (hrem_lt : y.glideRem.toInt.natAbs < t) (c : Ctx) (hk : k ≤ t) : Gliding y k ((glideTick c)^[k] y) := by
  subst ht
  induction k with
  | zero => exact h
  | succ k ih =>
    rw [Function.iterate_succ_apply']
    exact (ih (by omega)).tick hrem_lt hk c

/-- After all ticks the accumulator is a multiple of the tick count and below it, so it is 0 and the corrections are
the remainder (R223). -/
theorem Gliding.phaseInc_at_end (h : Gliding y k x) (hk : y.glideTicks.toNat = k) : x.phaseInc =
    BitVec.ofInt 32 (y.phaseInc.toNat + k * y.glideDelta.toInt + y.glideRem.toInt) := by
  obtain ⟨corrections, hinc, hsum⟩ := h.account
  have hlt := h.acc_lt
  rw [hk] at hlt hsum
  have hdvd : (k : Int) ∣ x.glideRemAcc.toInt := ⟨y.glideRem.toInt - corrections, by linarith⟩
  have hacc : x.glideRemAcc.toInt = 0 := Int.eq_zero_of_dvd_of_natAbs_lt_natAbs hdvd hlt
  have hcorrections : corrections = y.glideRem.toInt :=
    mul_right_cancel₀ (b := (k : Int)) (by omega) (by linarith)
  rw [hinc, hcorrections]

end

section
variable {c : Ctx} {startInc startFreq endFreq ms : Word} {x : Voice} {t : Nat}
  (hticks : ticksFromMs c.ctrlRate ms.toNat = t) (ht : 0 < t)
include hticks ht

theorem glideSetup_gliding : Gliding (glideSetup c startInc startFreq endFreq ms x) 0
    (glideSetup c startInc startFreq endFreq ms x) where
  active := by
    rw [glideSetup_glideTicks_toNat hticks ht, decide_eq_true ht, glideSetup_of_ticks hticks ht]
  left := by rw [glideSetup_of_ticks hticks ht, Nat.add_zero]
  ticks := rfl
  delta := rfl
  rem := rfl
  acc_lt := by
    rw [glideSetup_glideTicks_toNat hticks ht, glideSetup_of_ticks hticks ht]
    exact ht
  account := by
    refine ⟨0, by simp, ?_⟩
    rw [glideSetup_of_ticks hticks ht]
    simp

theorem glideSetup_iterate {k : Nat} (hk : k ≤ t) : Gliding (glideSetup c startInc startFreq endFreq ms x) k
    ((glideTick c)^[k] (glideSetup c startInc startFreq endFreq ms x)) :=
  (glideSetup_gliding hticks ht).iterate (glideSetup_glideTicks_toNat hticks ht) (glideSetup_glideRem_lt hticks ht) c hk

theorem glideSetup_iterate_glideActive {k : Nat} (hk : k ≤ t) :
    ((glideTick c)^[k] (glideSetup c startInc startFreq endFreq ms x)).glideActive = decide (k < t) := by
  rw [(glideSetup_iterate hticks ht hk).active, glideSetup_glideTicks_toNat hticks ht]

/-- The deltas and the remainder add up to the whole difference (R223). -/
theorem glideSetup_iterate_phaseInc :
    ((glideTick c)^[t] (glideSetup c startInc startFreq endFreq ms x)).phaseInc = inc c.fs endFreq := by
  have hwhole : (startInc.toNat : Int) + t * tdiv (glideSpan c startInc endFreq) t +
      (glideSpan c startInc endFreq - tdiv (glideSpan c startInc endFreq) t * t) = (inc c.fs endFreq).toNat := by
    rw [glideSpan]
    ring
  rw [(glideSetup_iterate hticks ht le_rfl).phaseInc_at_end (glideSetup_glideTicks_toNat hticks ht),
    glideSetup_glideDelta_toInt hticks ht, glideSetup_glideRem_toInt hticks ht, glideSetup_phaseInc hticks ht, hwhole,
    ofInt_toNat]

end

/-- Settles O27: a tick case by case; the ticks of a glide keep its account, which at the end adds up to the whole
difference. -/
theorem glideArrivesExactly : Obligations.GlideArrivesExactly := by
  unfold Obligations.GlideArrivesExactly
  refine ⟨fun c x => glideTick_inactive c, ?tick, ?run⟩
  case tick =>
    intro c x sum adjust acc next left hactive hsum hcorr hnext hleft
    subst hsum
    exact glideTick_active c hactive (hcorr.trans (glideCorrection_eq _ _).symm) hnext hleft
  case run =>
    intro c startInc startFreq endFreq ms x ticks hticks ht
    refine ⟨glideSetup_iterate_phaseInc hticks ht, ?last, fun k hk => ?before⟩
    case last => simp [glideSetup_iterate_glideActive hticks ht le_rfl]
    case before => simp [glideSetup_iterate_glideActive hticks ht hk.le, hk]

end Sys2Proof.Machine
end

section
/-! PROOFS. The arpeggiator (`47_arpeggio_and_instruments.md` R235, R236): what the attachment stores, and one tick. -/

namespace Sys2Proof.Machine

/-! ## The commands -/

section
variable {old notes : List Word} {k : Nat}

theorem arpStore_getElem?_of_lt (hk : k < notes.length) : (arpStore old notes)[k]? = notes[k]? :=
  List.getElem?_append_left hk

theorem arpStore_getElem?_of_ge (hk : notes.length ≤ k) : (arpStore old notes)[k]? = old[k]? := by
  rw [arpStore, List.getElem?_append_right hk, List.getElem?_drop, Nat.add_sub_cancel' hk]

end

section
variable (c : Ctx) (ms : Word) {notes : List Word} (x : Voice)

theorem arpAttach_of_no_notes (h : notes.length = 0) : arpAttach c ms notes x = { x with arpLen := 0 } := if_pos h

theorem arpAttach_of_too_many (h : arpMax < notes.length) : arpAttach c ms notes x = x := by
  rw [arpAttach, if_neg (Nat.ne_zero_of_lt h), if_pos h]

theorem arpAttach_of_notes (hpos : 1 ≤ notes.length) (hmax : notes.length ≤ arpMax) : arpAttach c ms notes x =
    { x with
      arpLen := BitVec.ofNat 4 notes.length
      arpSpeedMs := ms
      arpNotes := arpStore x.arpNotes notes
      arpIndex := 0
      arpCounter := arpTicks c ms
      freq := notes.headD 0
      phaseInc := inc c.fs (notes.headD 0) } := by
  rw [arpAttach, if_neg (Nat.ne_zero_of_lt hpos), if_neg (Nat.not_lt.mpr hmax)]

end

theorem some_headD_eq_getElem? {notes : List Word} (hpos : 1 ≤ notes.length) (d : Word) :
    some (notes.headD d) = notes[0]? := by
  obtain ⟨note, rest, rfl⟩ := List.exists_cons_of_length_pos hpos
  rfl

/-- Settles O25: both commands rewrite their voice, SET_ARP by `arpAttach`, one case of which applies to each count. -/
theorem arpeggioCommandResults : Obligations.ArpeggioCommandResults := by
  unfold Obligations.ArpeggioCommandResults
  intro s v ms notes x hx
  have hset : exec (.setArp v ms notes) s = .next (s.updateVoice v (arpAttach s.ctx ms notes)) :=
    exec_voice s rfl rfl
  have hstored := hset.trans (congrArg _ (State.updateVoice_of_some _ hx))
  refine ⟨?detach, fun hzero => ?none, fun hmany => ?ignored, fun hpos hmax => ⟨_, hstored, ?fields, ?length,
    ?first, fun k hk => ?new, fun k hk => ?old, ?counter⟩⟩
  case detach => rw [exec_voice s rfl rfl, State.updateVoice_of_some _ hx, voiceEffect]
  case none => rw [hstored, arpAttach_of_no_notes _ _ _ hzero]
  case ignored => rw [hset, State.updateVoice_unchanged hx (arpAttach_of_too_many _ _ _ hmany)]
  all_goals rw [arpAttach_of_notes _ _ _ hpos hmax]
  case fields => rfl
  case length =>
    rw [BitVec.toNat_ofNat]
    omega
  case first => exact some_headD_eq_getElem? hpos 0
  case new => exact arpStore_getElem?_of_lt hk
  case old => exact arpStore_getElem?_of_ge hk
  case counter => exact arpTicks_toNat s.ctx ms

/-! ## One tick -/

section
variable (c : Ctx) {x : Voice}

theorem arpTick_of_detached (h : x.arpLen = 0) : arpTick c x = x := if_pos h

/-- While ticks are left the counter alone moves. -/
theorem arpTick_of_two_le (hlen : x.arpLen ≠ 0) (hcounter : 2 ≤ x.arpCounter.toNat) :
    arpTick c x = { x with arpCounter := x.arpCounter - 1 } := by
  have hleft : x.arpCounter - 1 ≠ 0 := by bv_omega
  rw [arpTick, if_neg hlen]
  exact if_neg hleft

/-- The last tick sounds the note at the index advanced modulo the length, and reloads the counter. -/
theorem arpTick_of_one (hlen : x.arpLen ≠ 0) (hcounter : x.arpCounter.toNat = 1) {index : Nat}
    (hindex : index = (x.arpIndex.toNat + 1) % x.arpLen.toNat) {note : Word} (hnote : x.arpNotes[index]? = some note) :
    arpTick c x =
      { x with
        arpIndex := BitVec.ofNat 3 index
        freq := note
        phaseInc := inc c.fs note
        arpCounter := arpTicks c x.arpSpeedMs } := by
  have hleft : x.arpCounter - 1 = 0 := by bv_omega
  obtain rfl : x.arpNotes.getD index 0 = note := by rw [List.getD_eq_getElem?_getD, hnote, Option.getD_some]
  subst hindex
  rw [arpTick, if_neg hlen]
  exact if_pos hleft

end

/-- Settles O29: a tick case by case; the advanced index is below the length, so it fits its field and the list holds
a note there. -/
theorem arpTickResult : Obligations.ArpTickResult := by
  unfold Obligations.ArpTickResult
  refine fun c x => ⟨arpTick_of_detached c, fun hlen hcounter => ?counting, fun hlen hmax hnotes hcounter => ?advance⟩
  case counting =>
    refine ⟨_, ?_, arpTick_of_two_le c hlen hcounter⟩
    bv_omega
  case advance =>
    obtain ⟨index, hindex⟩ : ∃ index, index = (x.arpIndex.toNat + 1) % x.arpLen.toNat := ⟨_, rfl⟩
    have hlt : index < x.arpLen.toNat := hindex ▸ Nat.mod_lt _ (by bv_omega)
    have hfits : (BitVec.ofNat 3 index).toNat = index := Nat.mod_eq_of_lt (by omega)
    have hnote : x.arpNotes[index]? = some x.arpNotes[index] := List.getElem?_eq_getElem (by omega)
    exact ⟨_, _, _, hfits.trans hindex, by rw [hfits, hnote], arpTicks_toNat c x.arpSpeedMs,
      arpTick_of_one c hlen hcounter hindex hnote⟩

end Sys2Proof.Machine
end

section
/-! PROOFS. The tracker sequencer (`47_arpeggio_and_instruments.md` R239, R242, R243): the three normalisations of a
voice, and what each state loads. -/

namespace Sys2Proof.Machine

/-! ## Normalisation -/

section
variable (c : Ctx) {x : Voice}

theorem trkNormalise_to_sustain
    (h : x.envState = .attack ∧ attackLen c x.trkAddr.toNat ≤ x.trkStage.toNat ∨ x.envState = .decay) :
    trkNormalise c x = { x with envState := .sustain, trkStage := 0, trkTick := 0 } := by
  rw [trkNormalise_eq, if_pos h]

theorem trkNormalise_to_idle (hrelease : x.envState = .release)
    (hend : releaseLen c x.trkAddr.toNat ≤ x.trkStage.toNat) : trkNormalise c x =
      { x with envState := .idle, active := false, envValue := 0, trkStage := 0, trkTick := 0 } := by
  rw [trkNormalise_eq, if_neg (by simp [hrelease]), if_pos ⟨hrelease, hend⟩]

theorem trkNormalise_of_normal
    (h : x.envState = .idle ∨ x.envState = .sustain ∨
      x.envState = .attack ∧ x.trkStage.toNat < attackLen c x.trkAddr.toNat ∨
      x.envState = .release ∧ x.trkStage.toNat < releaseLen c x.trkAddr.toNat) : trkNormalise c x = x := by
  rw [trkNormalise_eq]
  obtain hst | hst | ⟨hst, hlt⟩ | ⟨hst, hlt⟩ := h
  case inl | inr.inl => simp [hst]
  case inr.inr.inl => simp [hst, Nat.not_le.mpr hlt]
  case inr.inr.inr => simp [hst, Nat.not_le.mpr hlt]

end

/-- Settles O37: `trkNormalise_eq` case by case; the lengths are `attackLen` and `releaseLen`. -/
theorem trackerNormalise : Obligations.TrackerNormalise := by
  unfold Obligations.TrackerNormalise
  exact fun c x => ⟨trkNormalise_to_sustain c, trkNormalise_to_idle c, trkNormalise_of_normal c⟩

@[simp] theorem trkNormalise_trkAddr (c : Ctx) (x : Voice) : (trkNormalise c x).trkAddr = x.trkAddr := by
  rw [trkNormalise_eq]
  split
  case isTrue => rfl
  case isFalse => split <;> rfl

/-! ## The stages and the morph factor of a normalised voice -/

section
variable (c : Ctx) {y : Voice} {a : Nat}

theorem trkMorphOf_of_sustain (h : y.envState = .sustain) : trkMorphOf c y = 0 := by
  simp [trkMorphOf, h]

/-- The quotient is at most 254 while the tick count is below the length of a stage, so its byte holds it. -/
theorem trkMorphOf_toNat (ha : y.trkAddr.toNat = a) (h : y.envState = .attack ∨ y.envState = .release)
    (htick : y.trkTick.toNat < stageTicks c a) : (trkMorphOf c y).toNat =
      if memRead c.mem (a + 2) 1 % 2 = 1 then y.trkTick.toNat * 255 / stageTicks c a else 0 := by
  subst ha
  have hfits : y.trkTick.toNat * 255 / stageTicks c y.trkAddr.toNat < 255 :=
    Nat.div_lt_of_lt_mul (Nat.mul_lt_mul_of_pos_right htick (by decide))
  by_cases hsmooth : memRead c.mem (y.trkAddr.toNat + 2) 1 % 2 = 1
  case pos =>
    rw [trkMorphOf, if_pos ⟨decide_eq_true hsmooth, h⟩, if_pos hsmooth, BitVec.toNat_ofNat]
    exact Nat.mod_eq_of_lt (hfits.trans (by decide))
  case neg =>
    rw [trkMorphOf, if_neg fun hs => hsmooth (of_decide_eq_true hs.1), if_neg hsmooth]
    rfl

end

/-! ## Loading -/

section
variable {c : Ctx} {x : Voice} (hbound : x.trkAddr ≠ 0)
include hbound

theorem trkLoad_of_no_stage (h : trkStages c (trkNormalise c x) = none) : trkLoad c x = trkNormalise c x := by
  rw [trkLoad, if_neg hbound]
  dsimp only
  rw [h]

theorem trkLoad_of_stages {cur nxt : Stage} (h : trkStages c (trkNormalise c x) = some (cur, nxt)) : trkLoad c x =
    { trkNormalise c x with
      trkCur := cur.1, trkVol := cur.2, trkNext := nxt.1, trkMorph := trkMorphOf c (trkNormalise c x) } := by
  rw [trkLoad, if_neg hbound]
  dsimp only
  rw [h]

end

section
variable {c : Ctx} {y : Voice} {a : Nat} (ha : y.trkAddr.toNat = a)

theorem trkStages_of_idle (h : y.envState = .idle) : trkStages c y = none := by
  simp only [trkStages, h]

include ha

theorem trkStages_of_sustain (h : y.envState = .sustain) :
    trkStages c y = some (sustainEnt c a, sustainEnt c a) := by
  simp only [trkStages, h, ha]

theorem trkStages_of_attack (h : y.envState = .attack) : trkStages c y =
    some (attackEnt c a y.trkStage.toNat,
      if y.trkStage.toNat + 1 < attackLen c a then attackEnt c a (y.trkStage.toNat + 1) else sustainEnt c a) := by
  simp only [trkStages, h, ha]

theorem trkStages_of_release (h : y.envState = .release) : trkStages c y =
    some (releaseEnt c a y.trkStage.toNat,
      if y.trkStage.toNat + 1 < releaseLen c a then releaseEnt c a (y.trkStage.toNat + 1)
      else releaseEnt c a y.trkStage.toNat) := by
  simp only [trkStages, h, ha]

end

/-- The waveform code a lookahead shows is the code of the entry it is taken from. -/
theorem attackLookahead_code (c : Ctx) (a k : Nat) :
    (if k + 1 < attackLen c a then attackEnt c a (k + 1) else sustainEnt c a).1 =
      BitVec.ofNat 16 (memRead c.mem (if k + 1 < attackLen c a then a + 8 + 4 * (k + 1) else a + 4) 2) := by
  split <;> rfl

theorem releaseLookahead_code (c : Ctx) (a k : Nat) :
    (if k + 1 < releaseLen c a then releaseEnt c a (k + 1) else releaseEnt c a k).1 =
      BitVec.ofNat 16
        (memRead c.mem (if k + 1 < releaseLen c a then a + 72 + 4 * (k + 1) else a + 72 + 4 * k) 2) := by
  split <;> rfl

/-- Settles O38: the normalised voice is bound to the same descriptor, and each of its states names the two entries to
load. -/
theorem trackerLoadsStage : Obligations.TrackerLoadsStage := by
  unfold Obligations.TrackerLoadsStage
  rintro c x _ _ _ rfl rfl rfl
  have ha : (trkNormalise c x).trkAddr.toNat = x.trkAddr.toNat := by rw [trkNormalise_trkAddr]
  refine ⟨fun hfree => if_pos hfree, fun hbound hst => trkLoad_of_no_stage hbound (trkStages_of_idle hst),
    fun hbound hst => ?sustain, fun hbound hst => ?attack, fun hbound hst => ?release, ?morph⟩
  case sustain =>
    rw [trkLoad_of_stages hbound (trkStages_of_sustain ha hst), trkMorphOf_of_sustain c hst]
    rfl
  case attack =>
    rw [trkLoad_of_stages hbound (trkStages_of_attack ha hst), attackLookahead_code]
    rfl
  case release =>
    rw [trkLoad_of_stages hbound (trkStages_of_release ha hst), releaseLookahead_code]
    rfl
  case morph =>
    rintro hbound hst _ rfl htick
    refine Eq.trans (congrArg BitVec.toNat ?_) (trkMorphOf_toNat c ha hst htick)
    obtain hst | hst := hst
    case inl => rw [trkLoad_of_stages hbound (trkStages_of_attack ha hst)]
    case inr => rw [trkLoad_of_stages hbound (trkStages_of_release ha hst)]

end Sys2Proof.Machine
end

section
/-! PROOFS. The zones of a sample instrument (`47_arpeggio_and_instruments.md` R253; `20_memory.md` R71): the search
for the first zone that holds a note, and what the lookup takes from it. -/

namespace Sys2Proof.Machine

/-- Zone z of the descriptor at a holds the note f, both bounds included: the test of `zoneFind` (R253). -/
def ZoneHolds (m : Memory) (a f z : Nat) : Prop :=
  memRead m (zoneAddr a z) 4 ≤ f ∧ f ≤ memRead m (zoneAddr a z + 4) 4

/-- The sample id and the root override `zoneFind` answers for zone z (R253). -/
def zoneEntry (m : Memory) (a z : Nat) : Half × Word :=
  (BitVec.ofNat 16 (memRead m (zoneAddr a z + 8) 2), BitVec.ofNat 32 (memRead m (zoneAddr a z + 12) 4))

/-! ## The search -/

section
variable {m : Memory} {a f z : Nat}

theorem zoneFind_of_holds (h : ZoneHolds m a f z) (count : Nat) :
    zoneFind m a f (count + 1) z = some (zoneEntry m a z) := if_pos h

theorem zoneFind_of_not_holds (h : ¬ ZoneHolds m a f z) (count : Nat) :
    zoneFind m a f (count + 1) z = zoneFind m a f count (z + 1) := if_neg h

theorem zoneFind_none {count : Nat} (h : ∀ k, z ≤ k → k < z + count → ¬ ZoneHolds m a f k) :
    zoneFind m a f count z = none := by
  induction count generalizing z with
  | zero => rfl
  | succ count ih =>
    rw [zoneFind_of_not_holds (h z le_rfl (by omega))]
    exact ih fun k hk hlt => h k (by omega) (by omega)

theorem zoneFind_first {count k : Nat} (hk : z ≤ k) (hlt : k < z + count) (hhit : ZoneHolds m a f k)
    (hfirst : ∀ j, z ≤ j → j < k → ¬ ZoneHolds m a f j) : zoneFind m a f count z = some (zoneEntry m a k) := by
  induction count generalizing z with
  | zero => omega
  | succ count ih =>
    obtain rfl | hne := hk.eq_or_lt
    case inl => exact zoneFind_of_holds hhit count
    case inr =>
      rw [zoneFind_of_not_holds (hfirst z le_rfl hne)]
      exact ih hne (by omega) fun j hj => hfirst j (by omega)

end

/-! ## The lookup -/

/-- The zone an instrument-bound voice finds for the note f among the at most `zoneMax` of its descriptor. -/
def zoneOf (c : Ctx) (f : Word) (x : Voice) : Option (Half × Word) :=
  zoneFind c.mem x.smpInstAddr.toNat f.toNat (min (memRead c.mem x.smpInstAddr.toNat 1) zoneMax) 0

section
variable (c : Ctx) (f : Word) (x : Voice)

theorem zoneLookup_smpId : (zoneLookup c f x).smpId = ((zoneOf c f x).getD (0xFFFF, 0)).1 := rfl

theorem zoneLookup_rootOverride : (zoneLookup c f x).rootOverride = ((zoneOf c f x).getD (0xFFFF, 0)).2 := rfl

end

/-- Settles O40: the lookup copies the descriptor's fields and asks the search, whose answer is the first zone that
holds the note. -/
theorem firstMatchingZoneWins : Obligations.FirstMatchingZoneWins := by
  unfold Obligations.FirstMatchingZoneWins
  rintro c f x _ _ hit rfl rfl hhit
  obtain rfl : hit = ZoneHolds c.mem x.smpInstAddr.toNat f.toNat := funext fun z => propext (hhit z)
  refine ⟨rfl, fun hmiss => ?noZone, fun z hz hholds hfirst => ?zone⟩
  case noZone =>
    have hzone : zoneOf c f x = none := zoneFind_none fun k _ hk => hmiss k (hk.trans_eq (Nat.zero_add _))
    rw [zoneLookup_smpId, zoneLookup_rootOverride, hzone]
    exact ⟨rfl, rfl⟩
  case zone =>
    have hzone : zoneOf c f x = some (zoneEntry c.mem x.smpInstAddr.toNat z) :=
      zoneFind_first (Nat.zero_le z) (hz.trans_eq (Nat.zero_add _).symm) hholds fun j _ => hfirst j
    rw [zoneLookup_smpId, zoneLookup_rootOverride, hzone]
    exact ⟨rfl, rfl⟩

end Sys2Proof.Machine
end

section
/-! PROOFS. The decoder undoes the encoder (`30_encoding.md` R90 to R93): the encoder writes a header and exactly the
operand words that header asks for, and from these the decoder reads every operand back. -/

namespace Sys2Proof

open Laws.EncodeShape in
/-- The encoder writes a header and as many operand words as that header asks for (R91). -/
theorem encode_shape : ∀ i : Instr, Statement i
  | .nop => nop
  | .noteOn v volume freq => noteOn v volume freq
  | .noteOff v => noteOff v
  | .setFreq v freq => setFreq v freq
  | .setVol v volume => setVol v volume
  | .setWave v code => setWave v code
  | .setPw v threshold => setPw v threshold
  | .setEnv v attack decay sustain release => setEnv v attack decay sustain release
  | .setVib v rate depth => setVib v rate depth
  | .setTrem v depth rate => setTrem v depth rate
  | .setWt v id => setWt v id
  | .regWt depth id base size => regWt depth id base size
  | .bindTrk v addr => bindTrk v addr
  | .bindSmp v addr => bindSmp v addr
  | .unbind v => unbind v
  | .setSmp v id mode loopStart loopEnd => setSmp v id mode loopStart loopEnd
  | .setArp v ms notes => setArp v ms notes
  | .detArp v => detArp v
  | .glide v startFreq endFreq ms => glide v startFreq endFreq ms
  | .glideTo v endFreq ms => glideTo v endFreq ms
  | .setRate hz => setRate hz
  | .setMvol volume => setMvol volume
  | .getFreq v => getFreq v
  | .getVol v => getVol v
  | .getEnv v => getEnv v
  | .getEnv8 v => getEnv8 v
  | .getLvl v => getLvl v
  | .getLvl8 v => getLvl8 v
  | .regSmp id base length rate root => regSmp id base length rate root
  | .render n width crush => render n width crush

/-- The words the encoder writes stand for the command: the header's fields come back, and each operand word stands at
its place. -/
theorem instrOf_encode {i : Instr} {h : Word} {ops : List Word} (he : encode i = h :: ops) :
    instrOf h ops = some i := by
  cases i
  case render n width crush =>
    obtain ⟨rfl, rfl⟩ := List.cons.inj he
    simp only [instrOf, headerOp_header, headerA_header, headerImm_header, renderFormat_fields, Nat.reduceLT]
  all_goals
    obtain ⟨rfl, rfl⟩ := List.cons.inj he
    simp [instrOf, headerOp_header, headerA_header, headerImm_header, headerImmLow_header_byte,
      loopModeOfCode_loopModeCode]

/-- Settles O1: the encoder's words are all the header asks for, so the decoder takes them and nothing behind them. -/
theorem decodeInvertsEncode : Obligations.DecodeInvertsEncode := by
  unfold Obligations.DecodeInvertsEncode
  intro i rest hw
  obtain ⟨h, ops, he, hl⟩ := encode_shape i hw
  rw [he, List.cons_append, decode_of_operands hl, instrOf_encode he]

/-- Settles O4: each of the spec's words decoded. -/
theorem specWordsDecode : Obligations.SpecWordsDecode := by
  unfold Obligations.SpecWordsDecode
  decide

end Sys2Proof
end

section
/-! PROOFS. What a command may change outside the voices it rewrites (`10_state.md` R40, `20_memory.md` R61, R77,
`30_encoding.md` R97, R98): the shapes of what a command does, as cases to go through, and the frame of each. -/

namespace Sys2Proof.Machine

/-! ## The shapes of a command's effect -/

/-- The state a command leads to from a state: `exec_cases` as a relation, one constructor a shape. -/
inductive Effect (i : Instr) (s : State) : State → Prop where
  | nothing (hg : i.isGet = false) : Effect i s s
  | voice {v : Byte} (hv : i.voiceOperand = some v) (hg : i.isGet = false) :
      Effect i s (s.updateVoice v (voiceEffect i s))
  | answer {v : Byte} (g : Voice → Word) (hg : i.isGet = true) : Effect i s (s.answer v g)
  | wavetable {depth : Byte} {id : Half} {base size : Word} {d : BitVec 5} (hi : i = .regWt depth id base size)
      (hd : depthOperand depth = some d) :
      Effect i s { s with wreg := s.wreg.set id.toNat { valid := true, base := base, size := size, depth := d } }
  | sample {id : Half} {base length rate root : Word} (hi : i = .regSmp id base length rate root) :
      Effect i s { s with
        sreg := s.sreg.set id.toNat { valid := true, base := base, length := length, rate := rate, root := root } }
  | rate {hz : Word} (hi : i = .setRate hz) (hne : hz ≠ 0) :
      Effect i s { s with ctrlRate := hz, ctrlInterval := intervalOfRate s.fs hz }
  | master {volume : Byte} (hi : i = .setMvol volume) : Effect i s { s with master := volume }
  | render {n : Half} {width : BitVec 2} {crush : Bool} {w : OutWidth} (hi : i = .render n width crush)
      (hmax : n.toNat ≤ s.mix.length) : Effect i s (rendered n.toNat w crush s)

section
variable {i : Instr} {s t : State}

/-- Every command answers a next state, and that state is one of the shapes. -/
theorem exec_next_effect (i : Instr) (s : State) : ∃ t, exec i s = .next t ∧ Effect i s t := by
  obtain ⟨_, hv, hg, he⟩ | ⟨_, g, -, hg, he⟩ | ⟨rfl, he⟩ | ⟨_, _, _, _, hi, he | ⟨_, hd, he⟩⟩ |
    ⟨_, _, _, _, _, hi, he⟩ | ⟨_, hi, he | ⟨hne, he⟩⟩ | ⟨_, hi, he⟩ | ⟨_, _, _, hi, he | ⟨_, -, hmax, -, he⟩⟩ :=
    exec_cases i s
  · exact ⟨_, he, .voice hv hg⟩
  · exact ⟨_, he, .answer g hg⟩
  · exact ⟨_, he, .nothing rfl⟩
  · exact ⟨_, he, .nothing (hi ▸ rfl)⟩
  · exact ⟨_, he, .wavetable hi hd⟩
  · exact ⟨_, he, .sample hi⟩
  · exact ⟨_, he, .nothing (hi ▸ rfl)⟩
  · exact ⟨_, he, .rate hi hne⟩
  · exact ⟨_, he, .master hi⟩
  · exact ⟨_, he, .nothing (hi ▸ rfl)⟩
  · exact ⟨_, he, .render hi hmax⟩

theorem exec_effect (h : exec i s = .next t) : Effect i s t := by
  obtain ⟨t', he, heff⟩ := exec_next_effect i s
  cases h.symm.trans he
  exact heff

end

/-- Settles O7: a command has one of the shapes, and a step is a command, a dropped header or a wait. -/
theorem everyCommandCompletes : Obligations.EveryCommandCompletes := by
  unfold Obligations.EveryCommandCompletes
  have hexec (i : Instr) (s : State) : ∃ t, exec i s = .next t := (exec_next_effect i s).imp fun _ => And.left
  refine ⟨hexec, fun s => ?_⟩
  obtain ⟨i, rest, -, he⟩ | ⟨_, _, -, he⟩ | ⟨-, he⟩ := step_cases s
  · exact he ▸ hexec i _
  · exact ⟨_, he⟩
  · exact ⟨_, he⟩

/-- Settles O5: it is the decoder's first case. -/
theorem stepRunsDecodedCommand : Obligations.StepRunsDecodedCommand := by
  unfold Obligations.StepRunsDecodedCommand
  exact fun _ _ _ => step_of_instr

/-! ## What no command writes, and what one alone does -/

section
variable {i : Instr} {s t : State}

theorem exec_mem (h : exec i s = .next t) : t.mem = s.mem := by
  cases exec_effect h with
  | voice | answer => simp
  | nothing | wavetable | sample | rate | master | render => rfl

/-- The parameters are lengths and fields that no command changes (R6). -/
theorem exec_config (h : exec i s = .next t) : t.config = s.config := by
  cases exec_effect h with
  | voice | answer | wavetable | sample => simp [State.config]
  | nothing | rate | master => rfl
  | render _ hmax =>
    rw [State.config, rendered_voices_length, rendered_mix_length _ _ hmax]
    rfl

theorem exec_master (h : exec i s = .next t) (hi : ∀ volume, i ≠ .setMvol volume) : t.master = s.master := by
  cases exec_effect h with
  | voice | answer => simp
  | nothing | wavetable | sample | rate | render => rfl
  | master hm => exact absurd hm (hi _)

theorem exec_rate (h : exec i s = .next t) (hi : ∀ hz, i ≠ .setRate hz) :
    t.ctrlRate = s.ctrlRate ∧ t.ctrlInterval = s.ctrlInterval := by
  cases exec_effect h with
  | voice | answer => simp
  | nothing | wavetable | sample | master | render => exact ⟨rfl, rfl⟩
  | rate hr => exact absurd hr (hi _)

theorem exec_sreg (h : exec i s = .next t) (hi : ∀ id base length rate root, i ≠ .regSmp id base length rate root) :
    t.sreg = s.sreg := by
  cases exec_effect h with
  | voice | answer => simp
  | nothing | wavetable | rate | master | render => rfl
  | sample hs => exact absurd hs (hi _ _ _ _ _)

theorem exec_wreg (h : exec i s = .next t) (hi : ∀ depth id base size, i ≠ .regWt depth id base size) :
    t.wreg = s.wreg := by
  cases exec_effect h with
  | voice | answer => simp
  | nothing | sample | rate | master | render => rfl
  | wavetable hw => exact absurd hw (hi _ _ _ _)

theorem exec_audio (h : exec i s = .next t) (hi : ∀ n width crush, i ≠ .render n width crush) :
    t.ctrlCounter = s.ctrlCounter ∧ t.mix = s.mix ∧ t.out = s.out := by
  cases exec_effect h with
  | voice | answer => simp
  | nothing | wavetable | sample | rate | master => exact ⟨rfl, rfl, rfl⟩
  | render hr => exact absurd hr (hi _ _ _)

/-- A command that rewrites no voice and renders none leaves the voice file alone. -/
theorem exec_voices (h : exec i s = .next t) (hv : i.voiceOperand = none ∨ i.isGet = true)
    (hi : ∀ n width crush, i ≠ .render n width crush) : t.voices = s.voices := by
  cases exec_effect h with
  | voice hsome hg => simp [hsome, hg] at hv
  | answer => simp
  | nothing | wavetable | sample | rate | master => rfl
  | render hr => exact absurd hr (hi _ _ _)

end

/-- Settles O12: each part of the state outside the voice file by its one writer. -/
theorem globalsHaveOneWriter : Obligations.GlobalsHaveOneWriter := by
  unfold Obligations.GlobalsHaveOneWriter
  exact fun i s t h => ⟨exec_mem h, exec_config h, exec_cmd h, exec_master h, exec_rate h, exec_sreg h, exec_wreg h,
    exec_audio h, fun hv => exec_voices h (.inl hv)⟩

/-! ## Answers and voices -/

/-- Settles O10: an accessor answers, and no other shape touches the response stream. -/
theorem onlyGetAnswers : Obligations.OnlyGetAnswers := by
  unfold Obligations.OnlyGetAnswers
  intro i s t h
  cases exec_effect h with
  | answer g hg => exact ⟨fun _ => State.answer_resp s _ g, fun hn => nomatch hg.symm.trans hn⟩
  | nothing hg => exact ⟨fun hn => (nomatch hg.symm.trans hn), fun _ => rfl⟩
  | voice _ hg => exact ⟨fun hn => (nomatch hg.symm.trans hn), fun _ => State.updateVoice_resp ..⟩
  | wavetable hi | sample hi | rate hi | master hi | render hi =>
    subst hi
    exact ⟨nofun, fun _ => rfl⟩

/-- Settles O13: a voice command rewrites the voice it names, or none when it is an accessor. -/
theorem voiceCommandKeepsOthers : Obligations.VoiceCommandKeepsOthers := by
  unfold Obligations.VoiceCommandKeepsOthers
  intro i v s t hv h
  cases hg : i.isGet with
  | false =>
    rw [exec_voice s hv hg] at h
    cases h
    exact ⟨State.updateVoice_voices_length .., fun j hj => State.updateVoice_other _ hj⟩
  | true =>
    obtain ⟨g, he⟩ := exec_get s hv hg
    rw [he] at h
    cases h
    simp

end Sys2Proof.Machine
end

section
/-! PROOFS. The invariants of the state (`10_state.md` R37 and sections 2 and 3, `00_scope.md` R6): each of them holds
right after reset and is kept by every command, so by every step. -/

namespace Sys2Proof.Machine

/-! ## Reset -/

theorem defaultConfig_valid : defaultConfig.Valid := by decide +kernel

theorem resetWith_config {c : Config} (mem : Memory) : (State.resetWith c mem).config = c := by
  simp only [State.config, State.resetWith_voices_length, State.resetWith_sreg_length, State.resetWith_wreg_length,
    State.resetWith_mix_length]
  rfl

theorem resetWith_inv {c : Config} {mem : Memory} (hc : c.Valid) (hm : mem.wf = true) :
    (State.resetWith c mem).Inv where
  config := (resetWith_config mem).symm ▸ hc
  rate := show 1 ≤ (BitVec.ofNat 32 ctrlRateDefault).toNat by decide
  interval := rfl
  depth e he hv := by
    rw [WtEntry.eq_reset_of_mem_resetWith he] at hv
    cases hv
  memory := hm
  voices x hx := Voice.eq_reset_of_mem_resetWith hx ▸ Voice.reset_inv

/-- Settles O9: every list of the reset state holds reset entries, and the interval is set from the rate. -/
theorem resetMeetsInv : Obligations.ResetMeetsInv := by
  unfold Obligations.ResetMeetsInv
  exact ⟨fun _ _ => resetWith_inv, resetWith_inv defaultConfig_valid wf_empty⟩

/-! ## Commands -/

section
variable {i : Instr} {s t : State}

theorem depthOperand_legal {a : Byte} {d : BitVec 5} (h : depthOperand a = some d) : d = 4 ∨ d = 8 ∨ d = 16 := by
  unfold depthOperand at h
  split_ifs at h <;> cases h <;> simp

/-- A voice after a RENDER met the invariants before it, at every tick and after its block. -/
theorem rendered_voices_inv (n : Nat) (w : OutWidth) (crush : Bool) (hs : ∀ x ∈ s.voices, x.Inv) :
    ∀ y ∈ (rendered n w crush s).voices, y.Inv := by
  obtain ⟨k, hk⟩ := rendered_voices_slots n w crush s
  intro y hy
  obtain ⟨x, hx, rfl⟩ := List.mem_map.mp (hk ▸ hy)
  refine renderSlot_inv s.ctx _ ?_
  exact Function.Iterate.rec Voice.Inv (hs x hx) (fun _ => tickVoice_inv s.ctx) k

theorem exec_voices_inv (h : exec i s = .next t) (hs : ∀ x ∈ s.voices, x.Inv) : ∀ y ∈ t.voices, y.Inv := by
  cases exec_effect h with
  | voice =>
    intro y hy
    obtain hy | ⟨x, hx, rfl⟩ := State.mem_updateVoice hy
    · exact hs y hy
    · exact voiceEffect_inv i s (hs x hx)
  | answer => simpa using hs
  | nothing | wavetable | sample | rate | master => exact hs
  | render => exact rendered_voices_inv _ _ _ hs

theorem exec_depth (h : exec i s = .next t)
    (hs : ∀ e ∈ s.wreg, e.valid = true → e.depth = 4 ∨ e.depth = 8 ∨ e.depth = 16) :
    ∀ e ∈ t.wreg, e.valid = true → e.depth = 4 ∨ e.depth = 8 ∨ e.depth = 16 := by
  cases exec_effect h with
  | voice | answer => simpa using hs
  | nothing | sample | rate | master | render => exact hs
  | wavetable _ hd =>
    intro e he hv
    obtain he | rfl := List.mem_or_eq_of_mem_set he
    · exact hs e he hv
    · exact depthOperand_legal hd

theorem exec_interval (h : exec i s = .next t) (hr : 1 ≤ s.ctrlRate.toNat)
    (hi : s.ctrlInterval = intervalOfRate s.fs s.ctrlRate) :
    1 ≤ t.ctrlRate.toNat ∧ t.ctrlInterval = intervalOfRate t.fs t.ctrlRate := by
  cases exec_effect h with
  | voice | answer => simpa using ⟨hr, hi⟩
  | nothing | wavetable | sample | master | render => exact ⟨hr, hi⟩
  | rate _ hne => exact ⟨by bv_omega, rfl⟩

theorem exec_inv (h : exec i s = .next t) (hs : s.Inv) : t.Inv where
  config := (exec_config h).symm ▸ hs.config
  rate := (exec_interval h hs.rate hs.interval).1
  interval := (exec_interval h hs.rate hs.interval).2
  depth := exec_depth h hs.depth
  memory := (exec_mem h).symm ▸ hs.memory
  voices := exec_voices_inv h hs.voices

theorem withCmd_inv (hs : s.Inv) (ws : List Word) : ({ s with cmd := ws } : State).Inv := { hs with }

end

/-- Settles O8: a step is a command, a dropped header or a wait, and the words waiting are in no invariant. -/
theorem stepKeepsInv : Obligations.StepKeepsInv := by
  unfold Obligations.StepKeepsInv
  intro s t hs h
  obtain ⟨i, rest, -, he⟩ | ⟨_, rest, -, he⟩ | ⟨-, he⟩ := step_cases s <;> rw [he] at h
  · exact exec_inv h (withCmd_inv hs rest)
  · cases h
    exact withCmd_inv hs rest
  · cases h
    exact hs

end Sys2Proof.Machine
end

section
/-! PROOFS. The quantiser and the voice loop (`48_block_mixer_quantizer.md` R265 to R277). -/

namespace Sys2Proof.Machine

/-! ## The quantiser -/

/-- The scaled entry clipped to 16 bits (R272, R273). -/
def clipped (master : Byte) (x : Int) : Int := clip (masterScale master x) (-32768) 32767

section
variable (master : Byte) (crush : Bool)

theorem clipped_range (x : Int) : -32768 ≤ clipped master x ∧ clipped master x ≤ 32767 := by
  unfold clipped clip
  omega

theorem clip16_eq (y : Int) :
    clip y (-32768) 32767 = if y < -32768 then -32768 else if 32767 < y then 32767 else y := by
  unfold clip
  split_ifs <;> omega

/-- Clearing the low byte is rounding down to a multiple of 256 (R274). -/
theorem crushBits_eq (y : Int) : crushBits crush y = if crush then y / 256 * 256 else y := by
  unfold crushBits
  split <;> omega

theorem crushBits_div (y : Int) : crushBits crush y / 256 = y / 256 := by
  rw [crushBits_eq]
  split <;> omega

theorem quantize_w8 (x : Int) : quantize master .w8 crush x = clipped master x / 256 := crushBits_div crush _

theorem quantize_w16 (x : Int) : quantize master .w16 crush x =
    if crush then clipped master x / 256 * 256 else clipped master x := crushBits_eq crush _

theorem quantize_w32 (x : Int) : quantize master .w32 crush x =
    (if crush then clipped master x / 256 * 256 else clipped master x) * 65536 :=
  congrArg (· * 65536) (crushBits_eq crush _)

end

/-- Settles O57: scaled and clipped, an entry is narrowed by its width's equation. -/
theorem quantiserFormula : Obligations.QuantiserFormula := by
  unfold Obligations.QuantiserFormula
  rintro master crush x _ _ rfl rfl
  rw [← clip16_eq]
  exact ⟨quantize_w8 master crush x, quantize_w16 master crush x, quantize_w32 master crush x⟩

section
variable (master : Byte) (w : OutWidth) (crush : Bool)

theorem quantize_zero : quantize master w crush 0 = 0 := by
  have hzero : clipped master 0 = 0 := by simp [clipped, masterScale, shr, clip]
  cases w with
  | w8 => rw [quantize_w8, hzero, Int.zero_ediv]
  | w16 => simp [quantize_w16, hzero]
  | w32 => simp [quantize_w32, hzero]

/-- `y` is in the range of the width's samples (R275). -/
def OutWidth.Holds (w : OutWidth) (y : Int) : Prop :=
  match w with
  | .w8 => -128 ≤ y ∧ y ≤ 127
  | .w16 => -32768 ≤ y ∧ y ≤ 32767
  | .w32 => -2147483648 ≤ y ∧ y ≤ 2147483647

theorem quantize_holds (x : Int) : w.Holds (quantize master w crush x) := by
  have hc := clipped_range master x
  cases w with
  | w8 =>
    rw [quantize_w8, OutWidth.Holds]
    omega
  | w16 =>
    rw [quantize_w16, OutWidth.Holds]
    split <;> omega
  | w32 =>
    rw [quantize_w32, OutWidth.Holds]
    split <;> omega

end

/-! ## The RENDER command -/

/-- The width an accepted code names (R275). -/
theorem outWidthOfCode_eq_some {width : BitVec 2} {w : OutWidth}
    (h : (width = 0 ∧ w = .w8) ∨ (width = 1 ∧ w = .w16) ∨ (width = 2 ∧ w = .w32)) :
    outWidthOfCode width = some w := by
  obtain ⟨rfl, rfl⟩ | ⟨rfl, rfl⟩ | ⟨rfl, rfl⟩ := h <;> rfl

/-- Settles O32: an accepted RENDER is the scheduler, the voice loop and the output, and a refused one is ignored. -/
theorem renderResult : Obligations.RenderResult := by
  unfold Obligations.RenderResult
  refine fun s n width crush => ⟨rfl, fun hbad => exec_render_rejected crush ?refused,
    fun w hpos hmax hw => ⟨_, _, _, rfl, rfl, ?length, ?accepted⟩⟩
  case refused =>
    exact hbad.imp (congrArg BitVec.toNat) (Or.imp_right (congrArg outWidthOfCode))
  case length => rw [renderSlots_mix_length, List.length_replicate]
  case accepted =>
    rw [exec_render_accepted crush hpos hmax (outWidthOfCode_eq_some hw), rendered_eq, rendered_out]
    rfl

/-- A sample of an accepted width, as the command's code bounds it. -/
theorem OutWidth.Holds.of_code {width : BitVec 2} {w : OutWidth} {y : Int} (hw : outWidthOfCode width = some w)
    (hy : w.Holds y) :
    (width = 0 → -128 ≤ y ∧ y ≤ 127) ∧ (width = 1 → -32768 ≤ y ∧ y ≤ 32767) ∧
      (width = 2 → -2147483648 ≤ y ∧ y ≤ 2147483647) := by
  refine ⟨?_, ?_, ?_⟩ <;>
  · rintro rfl
    cases hw
    exact hy

/-- Settles O11: the block holds n entries, and each is quantised into the range of the width. -/
theorem renderEmitsSamples : Obligations.RenderEmitsSamples := by
  unfold Obligations.RenderEmitsSamples
  intro s n width crush hpos hmax hwidth
  obtain ⟨w, hw⟩ := outWidthOfCode_some hwidth
  refine ⟨_, (renderSlots s.ctx (runScheduler n.toNat s).voices (List.replicate n.toNat 0)).1.map
    fun m => quantize s.master w crush m.toInt, exec_render_accepted crush hpos hmax hw, ?words, ?count, ?range⟩
  case words =>
    rw [rendered_out, List.map_map]
    rfl
  case count => rw [List.length_map, renderSlots_mix_length, List.length_replicate]
  case range =>
    intro y hy
    obtain ⟨m, -, rfl⟩ := List.mem_map.mp hy
    exact (quantize_holds s.master w crush m.toInt).of_code hw

/-! ## The voice loop -/

section
variable (c : Ctx)

theorem renderSlots_voices_getElem? {voices : List Voice} {j : Nat} {x : Voice} (hx : voices[j]? = some x)
    {mix m : List Word} (hm : m.length = mix.length) :
    (renderSlots c voices mix).2[j]? = some (renderSlot c x m).2 := by
  rw [renderSlots_voices, List.getElem?_map, hx, Option.map_some,
    renderSlot_voice_congr c x (mix' := m) (by rw [List.length_replicate, hm])]

section
variable {x : Voice} (hx : x.active = true) (mix : List Word)
include hx

/-- The early-out: the envelope alone has been advanced (R270). -/
theorem renderSlot_early (hzero : (envBlock mix.length x).1.start = 0) (hst : x.envState ≠ .attack) :
    renderSlot c x mix = (mix, (envBlock mix.length x).2) := by
  rw [renderSlot, if_pos hx]
  exact if_pos ⟨hzero, hst⟩

theorem renderSlot_rendered (h : x.envState = .attack ∨ (envBlock mix.length x).1.start ≠ 0) :
    renderSlot c x mix = renderVoice c (envBlock mix.length x).1 (envBlock mix.length x).2 mix := by
  rw [renderSlot, if_pos hx]
  exact if_neg fun ⟨hzero, hst⟩ => h.elim hst fun hne => hne hzero

end

end

/-- Settles O46: the loop by its laws, and a slot's round by whether the early-out applies. -/
theorem earlyOutAndDispatch : Obligations.EarlyOutAndDispatch := by
  unfold Obligations.EarlyOutAndDispatch
  refine ⟨fun c r x mix => ⟨fun htrk => if_pos htrk, ?basic, ?wavetable, ?sample, ?noise⟩,
    fun c voices mix => ⟨renderSlots_mix c voices mix, ?length, fun j x hx =>
      ⟨fun m hm => renderSlots_voices_getElem? c hx hm, fun hoff => ?inactive⟩⟩,
    fun c x mix hon => ⟨fun hzero hst => ?early, renderSlot_rendered c hon mix,
      fun htrk hst hrate hne hend => ?released⟩⟩
  case basic | wavetable | sample | noise =>
    intro htrk hkind
    rw [renderVoice, if_neg (not_not.mpr htrk), hkind]
  case length => rw [renderSlots_voices, List.length_map]
  case inactive =>
    have hslot := renderSlot_inactive c hoff mix
    exact ⟨hslot, (renderSlots_voices_getElem? c hx rfl).trans (by rw [hslot])⟩
  case early =>
    obtain ⟨_, _, _, henv⟩ := envBlock_frame mix.length x
    rw [renderSlot_early c hon mix hzero hst]
    exact ⟨rfl, by rw [henv], by rw [henv], by rw [henv]⟩
  case released =>
    have henv : envBlock mix.length x = (rampTo x.envValue.toNat 0 mix.length, x.enterIdle) :=
      (envBlock_release _ htrk hst hrate).trans (releaseBlock_ends hend)
    have hstart : (envBlock mix.length x).1.start = x.envValue.toNat := by
      rw [henv]
      rfl
    refine ⟨hstart, ?_⟩
    rw [renderSlot_rendered c hon mix (.inr ?_), henv]
    bv_omega

/-! ## The mix as a sum -/

/-- What one voice adds to entry i of a cleared block of n entries (R277). -/
def slotAmount (c : Ctx) (n i : Nat) (x : Voice) : Int :=
  (((renderSlot c x (List.replicate n 0)).1[i]?).getD 0).toInt

theorem Adds.congr {n : Nat} {render render' : List Word → List Word} {d : Nat → Int}
    (ha : Adds n render d) (h : ∀ mix, mix.length = n → render' mix = render mix) : Adds n render' d :=
  ⟨ha.1, fun mix hl i m hi => h mix hl ▸ ha.2 mix hl i m hi⟩

section
variable (c : Ctx) (n : Nat)

/-- A round of the voice loop adds, whatever its case. -/
theorem adds_renderSlot {x : Voice} (hx : x.Inv) : ∃ d, Adds n (fun mix => (renderSlot c x mix).1) d := by
  cases hon : x.active with
  | false => exact ⟨_, (adds_nothing n).congr fun mix _ => by rw [renderSlot_inactive c hon, id]⟩
  | true =>
    by_cases hrendered : x.envState = .attack ∨ (envBlock n x).1.start ≠ 0
    case pos =>
      obtain ⟨d, hadds⟩ := adds_renderVoice c (envBlock n x).2 (envBlock_inRange n hx.env_le hx.sustain_le)
      refine ⟨d, hadds.congr ?_⟩
      rintro mix rfl
      rw [renderSlot_rendered c hon mix hrendered]
    case neg =>
      refine ⟨_, (adds_nothing n).congr ?_⟩
      rintro mix rfl
      obtain ⟨hst, hzero⟩ := not_or.mp hrendered
      rw [renderSlot_early c hon mix (not_not.mp hzero) hst, id]

section
variable {n} {i : Nat} {x : Voice}

/-- The amount a round adds is the one it adds to a cleared entry. -/
theorem Adds.eq_slotAmount (hi : i < n) {d : Nat → Int}
    (ha : Adds n (fun mix => (renderSlot c x mix).1) d) : d i = slotAmount c n i x := by
  have hcleared : (renderSlot c x (List.replicate n 0)).1[i]? = some (u32 (0 + d i)) :=
    ha.2 _ List.length_replicate i 0 (by simp [hi])
  have hrange := ha.1 i hi
  rw [slotAmount, hcleared, Option.getD_some, Int.zero_add, u32_toInt (by omega) (by omega)]

theorem slotAmount_range (hx : x.Inv) (hi : i < n) : -32512 ≤ slotAmount c n i x ∧ slotAmount c n i x ≤ 32511 := by
  obtain ⟨d, ha⟩ := adds_renderSlot c n hx
  exact ha.eq_slotAmount c hi ▸ ha.1 i hi

theorem renderSlot_getElem? (hx : x.Inv) {mix : List Word} (hl : mix.length = n) {m : Word}
    (hm : mix[i]? = some m) : (renderSlot c x mix).1[i]? = some (u32 (m.toInt + slotAmount c n i x)) := by
  obtain ⟨d, ha⟩ := adds_renderSlot c n hx
  have hi : i < n := hl ▸ (List.getElem?_eq_some_iff.mp hm).1
  exact ha.eq_slotAmount c hi ▸ ha.2 mix hl i m hm

end

/-- Adding to a word in two parts is adding the sum. -/
theorem u32_toInt_add (a b : Int) : u32 ((u32 a).toInt + b) = u32 (a + b) := by
  simp only [u32, BitVec.ofInt_add, BitVec.ofInt_toInt]

/-- The voice loop adds the amounts of all voices (R269, R277). -/
theorem renderSlots_adds {voices : List Voice} (hv : ∀ x ∈ voices, x.Inv) {mix : List Word} (hl : mix.length = n)
    {i : Nat} {m : Word} (hm : mix[i]? = some m) :
    (renderSlots c voices mix).1[i]? = some (u32 (m.toInt + (voices.map (slotAmount c n i)).sum)) := by
  induction voices generalizing mix m with
  | nil => simpa [renderSlots, u32] using hm
  | cons x xs ih =>
    have hx := renderSlot_getElem? c (hv x List.mem_cons_self) hl hm
    rw [renderSlots, ih (fun y hy => hv y (List.mem_cons_of_mem x hy)) ((renderSlot_length c x mix).trans hl) hx,
      u32_toInt_add, List.map_cons, List.sum_cons, Int.add_assoc]

/-- Amounts of -32512 to 32511 each sum to at most 32512 a voice. -/
theorem slotAmount_sum_le {voices : List Voice} (hv : ∀ x ∈ voices, x.Inv) {i : Nat} (hi : i < n) :
    ((voices.map (slotAmount c n i)).sum).natAbs ≤ voices.length * 32512 := by
  induction voices with
  | nil => simp
  | cons x xs ih =>
    have hx := slotAmount_range c (hv x List.mem_cons_self) hi
    have hxs := ih fun y hy => hv y (List.mem_cons_of_mem x hy)
    rw [List.map_cons, List.sum_cons, List.length_cons]
    omega

end

/-- Settles O56: at most 256 amounts of at most 32512 fit a word, also after the master scale of at most 255. -/
theorem voicesAddWithoutOverflow : Obligations.VoicesAddWithoutOverflow := by
  unfold Obligations.VoicesAddWithoutOverflow
  intro s n i hs _ hi
  have hnv : s.voices.length ≤ 256 := hs.config.1.2
  have hsum := slotAmount_sum_le s.ctx n hs.voices hi
  have hcleared : (List.replicate n (0 : Word))[i]? = some 0 := by simp [hi]
  have hmix := renderSlots_adds s.ctx n hs.voices List.length_replicate hcleared
  rw [show (0 : Word).toInt = 0 from rfl, Int.zero_add] at hmix
  obtain ⟨total, htotal⟩ : ∃ total, total = (s.voices.map (slotAmount s.ctx n i)).sum := ⟨_, rfl⟩
  rw [← htotal] at hsum hmix
  have htop : total.natAbs ≤ 8323072 := by omega
  have hmaster : s.master.toNat ≤ 255 := Nat.le_of_lt_succ s.master.isLt
  have hscaled := Nat.mul_le_mul htop hmaster
  have hm : (u32 total).toInt = total := u32_toInt (by omega) (by omega)
  refine ⟨_, hmix, hm.trans htotal, fun x hx => slotAmount_range s.ctx (hs.voices x hx) hi,
    (congrArg Int.natAbs hm).trans_le hsum, ?_⟩
  rw [hm, Int.natAbs_mul, Int.natAbs_natCast]
  exact hscaled.trans_lt (by decide)

end Sys2Proof.Machine
end

section
/-! PROOFS. What RENDER does to each voice (`10_state.md` R20, `45_lfo_modulator.md` R202, R203,
`48_block_mixer_quantizer.md` R280): the fields it may write, what it leaves of an inactive voice, and that no voice
depends on another, which then holds of every command. -/

namespace Sys2Proof.Machine

/-! ## The fields of a voice RENDER may write -/

/-- `y` differs from `x` in no field but those RENDER may write (R280). -/
def Voice.RenderFrame (x y : Voice) : Prop :=
  y = { x with
    active := y.active, envState := y.envState, freq := y.freq, phase := y.phase, phaseInc := y.phaseInc,
    envValue := y.envValue, smpPos := y.smpPos, smpDir := y.smpDir, smpFinished := y.smpFinished,
    noiseSeed := y.noiseSeed, vibPhase := y.vibPhase, vibOffset := y.vibOffset, tremPhase := y.tremPhase,
    tremGain := y.tremGain, glideActive := y.glideActive, glideRemAcc := y.glideRemAcc, glideLeft := y.glideLeft,
    arpIndex := y.arpIndex, arpCounter := y.arpCounter, trkStage := y.trkStage, trkTick := y.trkTick,
    trkCur := y.trkCur, trkNext := y.trkNext, trkMorph := y.trkMorph, trkVol := y.trkVol }

namespace Voice.RenderFrame

theorem refl (x : Voice) : x.RenderFrame x := rfl

theorem trans {x y z : Voice} (hxy : x.RenderFrame y) (hyz : y.RenderFrame z) : x.RenderFrame z := by
  unfold RenderFrame at *
  rw [hyz, hxy]

theorem tickVoice (c : Ctx) (x : Voice) : x.RenderFrame (Machine.tickVoice c x) := by
  obtain ⟨_, _, _, _, _, _, _, _, _, _, _, _, _, _, _, _, _, _, _, _, h⟩ := tickVoice_fields c x
  rw [h, RenderFrame]

theorem renderSlot (c : Ctx) (x : Voice) (mix : List Word) : x.RenderFrame (Machine.renderSlot c x mix).2 := by
  obtain ⟨_, _, _, _, _, _, _, _, h⟩ := renderSlot_fields c x mix
  rw [h, RenderFrame]

theorem iterate_tickVoice (c : Ctx) (x : Voice) (k : Nat) : x.RenderFrame ((Machine.tickVoice c)^[k] x) :=
  Function.Iterate.rec x.RenderFrame (refl x) (fun y h => h.trans (tickVoice c y)) k

end Voice.RenderFrame

/-! ## RENDER slot by slot -/

/-- RENDER on one voice: k control ticks, then a block of n samples (R265, R269). -/
def renderedVoice (c : Ctx) (k n : Nat) (x : Voice) : Voice :=
  (renderSlot c ((tickVoice c)^[k] x) (List.replicate n 0)).2

section
variable {c : Ctx} {k n : Nat} {x : Voice}

theorem renderedVoice_frame (c : Ctx) (k n : Nat) (x : Voice) : x.RenderFrame (renderedVoice c k n x) :=
  (Voice.RenderFrame.iterate_tickVoice c x k).trans (Voice.RenderFrame.renderSlot c _ _)

theorem renderedVoice_inactive (h : x.active = false) : renderedVoice c k n x = x := by
  rw [renderedVoice, tickVoice_iterate_inactive c h, renderSlot_inactive c h]

end

theorem rendered_voices_map (n : Nat) (w : OutWidth) (crush : Bool) (s : State) :
    ∃ k, (rendered n w crush s).voices = s.voices.map (renderedVoice s.ctx k n) := rendered_voices_slots n w crush s

/-- A RENDER changes no voice, or each by the same ticks and a block. -/
theorem exec_render_voices {s t : State} {n : Half} {width : BitVec 2} {crush : Bool}
    (h : exec (.render n width crush) s = .next t) :
    t.voices = s.voices ∨ ∃ k, t.voices = s.voices.map (renderedVoice s.ctx k n.toNat) := by
  obtain he | ⟨w, -, -, -, he⟩ := exec_render_cases s n width crush <;> rw [he] at h <;> cases h
  · exact .inl rfl
  · exact .inr (rendered_voices_map n.toNat w crush s)

/-- Settles O33: ticks and block are in the frame, one after the other. -/
theorem renderFrame : Obligations.RenderFrame := by
  unfold Obligations.RenderFrame
  intro s t n width crush h
  obtain hv | ⟨k, hv⟩ := exec_render_voices h <;> rw [hv]
  · refine ⟨rfl, fun j x y hx hy => ?_⟩
    cases hx.symm.trans hy
    exact Voice.RenderFrame.refl x
  · refine ⟨List.length_map .., fun j x y hx hy => ?_⟩
    rw [List.getElem?_map, hx] at hy
    cases hy
    exact renderedVoice_frame s.ctx k n.toNat x

/-! ## Inactive voices -/

section
variable {c : Ctx} {voices : List Voice} (hoff : ∀ x ∈ voices, x.active = false)
include hoff

theorem renderSlots_mix_of_inactive (mix : List Word) : (renderSlots c voices mix).1 = mix := by
  rw [renderSlots_mix]
  induction voices with
  | nil => rfl
  | cons x xs ih =>
    rw [List.foldl_cons, renderSlot_inactive c (hoff x List.mem_cons_self)]
    exact ih fun y hy => hoff y (List.mem_cons_of_mem x hy)

end

theorem runScheduler_voices_of_inactive {s : State} (n : Nat) (hoff : ∀ x ∈ s.voices, x.active = false) :
    (runScheduler n s).voices = s.voices := by
  obtain ⟨k, rest, h⟩ := tickLoop_slot s.ctx s.ctrlInterval.toNat (s.ctrlCounter.toNat + n) (s.ctrlCounter.toNat + n)
  rw [runScheduler, h]
  exact (List.map_congr_left fun x hx => tickVoice_iterate_inactive s.ctx (hoff x hx) k).trans (List.map_id _)

/-- Settles O34: a tick and a round leave an inactive voice, and without another the entries stay 0, as does their
quantised value. -/
theorem inactiveVoicesAreFrozenAndSilent : Obligations.InactiveVoicesAreFrozenAndSilent := by
  unfold Obligations.InactiveVoicesAreFrozenAndSilent
  intro s t n width crush h
  have hfrozen (j : Nat) (x : Voice) (hx : s.voices[j]? = some x) (hoff : x.active = false) :
      t.voices[j]? = some x := by
    obtain hv | ⟨k, hv⟩ := exec_render_voices h <;> rw [hv]
    · exact hx
    · rw [List.getElem?_map, hx, Option.map_some, renderedVoice_inactive hoff]
  refine ⟨hfrozen, fun hoff hpos hmax hwidth => ⟨?voices, ?silence⟩⟩
  case voices =>
    obtain hv | ⟨k, hv⟩ := exec_render_voices h
    · exact hv
    · exact hv.trans ((List.map_congr_left fun x hx => renderedVoice_inactive (hoff x hx)).trans (List.map_id _))
  case silence =>
    obtain ⟨w, hw⟩ := outWidthOfCode_some hwidth
    cases (exec_render_accepted crush hpos hmax hw).symm.trans h
    rw [rendered_out, runScheduler_voices_of_inactive n.toNat hoff, renderSlots_mix_of_inactive hoff,
      List.map_replicate]
    exact congrArg (s.out ++ List.replicate n.toNat ·) (congrArg u32 (quantize_zero s.master w crush))

/-! ## No voice depends on another -/

/-- Two states with the same surroundings of a voice: what it may read beside itself, the scheduler's registers, and
the size of the mix buffer. -/
structure SameSurroundings (s s' : State) : Prop where
  ctx : s.ctx = s'.ctx
  interval : s.ctrlInterval = s'.ctrlInterval
  counter : s.ctrlCounter = s'.ctrlCounter
  mix : s.mix.length = s'.mix.length

section
variable {s s' t t' : State} (hs : SameSurroundings s s')
include hs

theorem SameSurroundings.voiceEffect_congr (i : Instr) : voiceEffect i s = voiceEffect i s' := by
  have hctx := hs.ctx
  have hfs : s.fs = s'.fs := congrArg Ctx.fs hctx
  cases i <;> simp only [voiceEffect, hctx, hfs]

theorem SameSurroundings.renderArgs_congr (n : Nat) (width : BitVec 2) :
    renderArgs s n width = renderArgs s' n width := by
  rw [renderArgs, hs.mix, renderArgs]

/-- The scheduler runs as many ticks in both, so each voice is rendered by one function. -/
theorem SameSurroundings.rendered_voices (n : Nat) (w : OutWidth) (crush : Bool) :
    ∃ k, (rendered n w crush s).voices = s.voices.map (renderedVoice s.ctx k n) ∧
      (rendered n w crush s').voices = s'.voices.map (renderedVoice s.ctx k n) := by
  obtain ⟨hctx, hinterval, hcounter, -⟩ := hs
  obtain ⟨k, rest, h⟩ := tickLoop_slot s.ctx s.ctrlInterval.toNat (s.ctrlCounter.toNat + n) (s.ctrlCounter.toNat + n)
  refine ⟨k, ?_, ?_⟩
  · rw [Machine.rendered_voices, renderSlots_voices, runScheduler, h]
    simp [renderedVoice]
  · rw [Machine.rendered_voices, renderSlots_voices, runScheduler, ← hctx, ← hinterval, ← hcounter, h]
    simp [renderedVoice]

/-- A RENDER takes both through one function of a voice. -/
theorem SameSurroundings.exec_render {n : Half} {width : BitVec 2} {crush : Bool}
    (h : exec (.render n width crush) s = .next t) (h' : exec (.render n width crush) s' = .next t') :
    ∃ f : Voice → Voice, t.voices = s.voices.map f ∧ t'.voices = s'.voices.map f := by
  rw [exec, execRender] at h h'
  rw [← hs.renderArgs_congr] at h'
  cases hargs : renderArgs s n.toNat width with
  | none =>
    rw [hargs] at h h'
    cases h
    cases h'
    exact ⟨id, (List.map_id _).symm, (List.map_id _).symm⟩
  | some w =>
    rw [hargs] at h h'
    cases h
    cases h'
    obtain ⟨k, hk⟩ := hs.rendered_voices n.toNat w crush
    exact ⟨_, hk⟩

end

/-- Settles O15: a voice command rewrites voice j by one function in both states or leaves it, a RENDER takes it
through one function of the surroundings, and no other command writes a voice. -/
theorem voicesDoNotInteract : Obligations.VoicesDoNotInteract := by
  unfold Obligations.VoicesDoNotInteract
  intro i s s' t t' j hctx hinterval hcounter hmix _ hj h h'
  have hs : SameSurroundings s s' := ⟨hctx, hinterval, hcounter, hmix⟩
  by_cases hrender : ∃ n width crush, i = .render n width crush
  case pos =>
    obtain ⟨n, width, crush, rfl⟩ := hrender
    obtain ⟨f, hf, hf'⟩ := hs.exec_render h h'
    rw [hf, hf', List.getElem?_map, List.getElem?_map, hj]
  case neg =>
    have hnot : ∀ n width crush, i ≠ .render n width crush := fun n width crush he => hrender ⟨n, width, crush, he⟩
    by_cases hv : i.voiceOperand = none ∨ i.isGet = true
    case pos => rw [exec_voices h hv hnot, exec_voices h' hv hnot, hj]
    case neg =>
      obtain ⟨hsome, hg⟩ := not_or.mp hv
      obtain ⟨v, hv⟩ := Option.ne_none_iff_exists'.mp hsome
      rw [exec_voice _ hv (Bool.eq_false_iff.mpr hg)] at h h'
      cases h
      cases h'
      rw [State.updateVoice_voices, State.updateVoice_voices, List.getElem?_modify, List.getElem?_modify, hj,
        hs.voiceEffect_congr]

end Sys2Proof.Machine
end

section
/-! PROOFS. What the commands do to the voice they name (`49_control_commands.md` R291 to R305): each rewrites it by its
`voiceEffect`. -/

namespace Sys2Proof.Machine

section
variable {i : Instr} {s : State} {v : Byte} {x : Voice} (hx : s.voices[v.toNat]? = some x)
  (hv : i.voiceOperand = some v) (hg : i.isGet = false)
include hx hv hg

theorem exec_voice_of_some : exec i s = .next { s with voices := s.voices.set v.toNat (voiceEffect i s x) } := by
  rw [exec_voice s hv hg, State.updateVoice_of_some _ hx]

theorem exec_voice_unchanged (he : voiceEffect i s x = x) : exec i s = .next s := by
  rw [exec_voice s hv hg, State.updateVoice_unchanged hx he]

end

/-! ## Restarting a tracker instrument -/

section
variable (c : Ctx) {x : Voice}

theorem restartTracker_of_free (h : x.trkAddr = 0) : restartTracker c x = x := if_neg (not_not.mpr h)

theorem restartTracker_of_bound (h : x.trkAddr ≠ 0) : restartTracker c x = trkLoad c x.firstStage := if_pos h

/-- Outside Release the load ends no voice, so it leaves `active` and the envelope value (R242). -/
theorem trkLoad_fields_of_ne_release (h : x.envState ≠ .release) :
    ∃ st stage tick cur nxt morph vol,
      trkLoad c x = { x with envState := st, trkStage := stage, trkTick := tick, trkCur := cur, trkNext := nxt,
                             trkMorph := morph, trkVol := vol } := by
  obtain ⟨_, _, _, _, he⟩ := trkLoad_frame c x
  rw [he, trkNormalise_eq, if_neg (c := x.envState = .release ∧ _) fun hr => h hr.1]
  split_ifs <;> exact ⟨_, _, _, _, _, _, _, rfl⟩

theorem restartTracker_fields_of_ne_release (h : x.envState ≠ .release) :
    ∃ st stage tick cur nxt morph vol,
      restartTracker c x = { x with envState := st, trkStage := stage, trkTick := tick, trkCur := cur, trkNext := nxt,
                                    trkMorph := morph, trkVol := vol } := by
  by_cases hfree : x.trkAddr = 0
  · exact ⟨_, _, _, _, _, _, _, restartTracker_of_free c hfree⟩
  · obtain ⟨_, _, _, _, _, _, _, he⟩ := trkLoad_fields_of_ne_release c (x := x.firstStage) h
    exact ⟨_, _, _, _, _, _, _, (restartTracker_of_bound c hfree).trans he⟩

end

/-! ## Notes -/

/-- Settles O16: the four stages of `noteOnVoice`. -/
theorem noteOnResult : Obligations.NoteOnResult := by
  unfold Obligations.NoteOnResult
  exact fun s v volume freq x hx => ⟨_, _, _, _, rfl, rfl, rfl, rfl, exec_voice_of_some hx rfl rfl⟩

/-- Settles O17: every stage of `noteOnVoice` has its fields, and without an instrument, a sample or a tracker the
stage for it is left out. -/
theorem noteOnFrame : Obligations.NoteOnFrame := by
  unfold Obligations.NoteOnFrame
  intro s t v volume freq x y hx h hy
  cases (exec_voice_of_some hx rfl rfl).symm.trans h
  rw [List.getElem?_set_self (List.getElem?_eq_some_iff.mp hx).1] at hy
  obtain rfl : noteOnVoice s.ctx volume freq x = y := Option.some.inj hy
  obtain ⟨a, b, z, ha, hb, ⟨_, _, _, _, _, _, hbf⟩, hz, ⟨_, _, _, _, hzf⟩, hd⟩ :=
    noteOnVoice_stages s.ctx volume freq x
  have hd : noteOnVoice s.ctx volume freq x = restartTracker s.ctx z := hd
  have hattack : z.envState = .attack := by rw [hzf, hbf, ha]; rfl
  have haddr : z.trkAddr = x.trkAddr := by rw [hzf, hbf, ha]; rfl
  have hba (hinst : x.smpInstAddr = 0) : b = a := hb.trans (if_neg (not_not.mpr (by rw [ha]; exact hinst)))
  obtain ⟨_, _, _, _, _, _, _, hdf⟩ := restartTracker_fields_of_ne_release s.ctx (x := z) (by rw [hattack]; nofun)
  rw [hd]
  refine ⟨?active, ?frame, fun hinst => ?selection, fun hinst hnot => ?head, fun hfree => ?tracker⟩
  case active =>
    rw [hdf, hzf, hbf, ha]
    rfl
  case frame =>
    rw [hdf, hzf, hbf, ha]
    rfl
  case selection =>
    rw [hdf, hzf, hba hinst, ha]
    exact ⟨rfl, rfl, rfl, rfl⟩
  case head =>
    have hkind : b.kind ≠ .sample := by rw [hba hinst, ha]; exact hnot
    rw [hdf, hz.trans (if_neg hkind), hba hinst, ha]
    exact ⟨rfl, rfl, rfl, rfl⟩
  case tracker =>
    rw [restartTracker_of_free s.ctx (haddr.trans hfree), hattack, hzf, hbf, ha]
    exact ⟨rfl, rfl, rfl, rfl, rfl, rfl, rfl⟩

/-- Settles O18: `noteOffVoice` by whether the voice is active and whether a tracker is bound. -/
theorem noteOffResult : Obligations.NoteOffResult := by
  unfold Obligations.NoteOffResult
  refine fun s v x hx => ⟨fun hoff => exec_voice_unchanged hx rfl rfl ?inactive, fun hon hfree => ?ordinary,
    fun hon hbound => ?tracker⟩
  case inactive => exact if_neg (Bool.eq_false_iff.mp hoff)
  all_goals rw [exec_voice_of_some hx rfl rfl, voiceEffect, noteOffVoice, if_pos hon]
  case ordinary => rw [restartTracker_of_free s.ctx (x := { x with envState := .release }) hfree]
  case tracker =>
    rw [restartTracker_of_bound s.ctx (x := { x with envState := .release }) hbound]
    rfl

/-! ## Parameters and bindings -/

section
variable {code : Half} (x : Voice)

theorem selectWave_of_shape {shape : Shape} (h : shapeOfCode code.toNat = some shape) :
    selectWave code x = { x with kind := .basic, shape := shape } := by
  rw [selectWave, h]

theorem selectWave_of_gt (h : 4 < code.toNat) : selectWave code x = x := by
  rw [selectWave, shapeOfCode_of_ge h.le]
  exact if_neg (by bv_omega)

end

/-- Settles O20: the code is a shape's, that of noise, or none. -/
theorem setWaveResult : Obligations.SetWaveResult := by
  unfold Obligations.SetWaveResult
  intro s v code x hx
  have hset : exec (.setWave v code) s = .next { s with voices := s.voices.set v.toNat (selectWave code x) } :=
    exec_voice_of_some hx rfl rfl
  have hshape (shape : Shape) (h : shapeOfCode code.toNat = some shape) : exec (.setWave v code) s =
      .next { s with voices := s.voices.set v.toNat { x with kind := .basic, shape := shape } } := by
    rw [hset, selectWave_of_shape x h]
  refine ⟨fun h => hshape _ (h ▸ rfl), fun h => hshape _ (h ▸ rfl), fun h => hshape _ (h ▸ rfl),
    fun h => hshape _ (h ▸ rfl), fun h => ?noise, fun h => exec_voice_unchanged hx rfl rfl (selectWave_of_gt x h)⟩
  case noise =>
    obtain rfl : code = 4 := BitVec.eq_of_toNat_eq h
    exact hset

/-- Settles O21: each command's `voiceEffect` writes its operands. -/
theorem parameterResults : Obligations.ParameterResults := by
  unfold Obligations.ParameterResults
  intro s v depth8 id mode freq rate depth loopStart loopEnd x hx
  refine ⟨?_, ?_, ?_, ?_, ?_, ?_⟩ <;> exact exec_voice_of_some hx rfl rfl

theorem sustainOperand_toNat (w : Word) : (sustainOperand w).toNat = min w.toNat envMax :=
  (BitVec.toNat_ofNat ..).trans (Nat.mod_eq_of_lt ((Nat.min_le_right _ envMax).trans_lt (by decide)))

/-- Settles O22: the level is the clamped operand. -/
theorem setEnvResult : Obligations.SetEnvResult := by
  unfold Obligations.SetEnvResult
  exact fun s v attack decay sustain release x hx =>
    ⟨_, sustainOperand_toNat sustain, exec_voice_of_some hx rfl rfl⟩

/-- Settles O24: each command's `voiceEffect` writes both bindings. -/
theorem bindingResults : Obligations.BindingResults := by
  unfold Obligations.BindingResults
  intro s v addr x hx
  refine ⟨?_, ?_, ?_⟩ <;> exact exec_voice_of_some hx rfl rfl

/-! ## The volume -/

section
variable (c : Ctx) (x : Voice)

@[simp] theorem trkLoad_volume : (trkLoad c x).volume = x.volume := by
  obtain ⟨_, _, _, _, _, _, _, _, _, h⟩ := trkLoad_fields c x
  rw [h]

@[simp] theorem noteOffVoice_volume : (noteOffVoice c x).volume = x.volume := by
  unfold noteOffVoice restartTracker
  split_ifs <;> simp

@[simp] theorem selectWave_volume (code : Half) : (selectWave code x).volume = x.volume := by
  unfold selectWave
  split
  · rfl
  · split <;> rfl

@[simp] theorem bindTrkVoice_volume (addr : Word) : (bindTrkVoice c addr x).volume = x.volume := trkLoad_volume ..

@[simp] theorem arpAttach_volume (ms : Word) (notes : List Word) : (arpAttach c ms notes x).volume = x.volume := by
  unfold arpAttach
  split_ifs <;> rfl

@[simp] theorem glideSetup_volume (startInc startFreq endFreq ms : Word) :
    (glideSetup c startInc startFreq endFreq ms x).volume = x.volume := by
  obtain ⟨_, _, _, _, _, _, _, _, _, h⟩ := glideSetup_fields c startInc startFreq endFreq ms x
  rw [h]

theorem renderedVoice_volume (k n : Nat) : (renderedVoice c k n x).volume = x.volume := by
  rw [renderedVoice_frame c k n x]

end

theorem voiceEffect_volume {i : Instr} {v : Byte} (hv : i.voiceOperand = some v) (hon : ∀ w f, i ≠ .noteOn v w f)
    (hset : ∀ w, i ≠ .setVol v w) (s : State) (x : Voice) : (voiceEffect i s x).volume = x.volume := by
  cases i
  case noteOn =>
    cases hv
    exact absurd rfl (hon _ _)
  case setVol =>
    cases hv
    exact absurd rfl (hset _)
  all_goals simp [voiceEffect]

/-- A command other than NOTE_ON and SET_VOL on a voice keeps the voice's volume. -/
theorem exec_volume {i : Instr} {s t : State} {v : Byte} {x : Voice} (h : exec i s = .next t)
    (hx : s.voices[v.toNat]? = some x) (hon : ∀ w f, i ≠ .noteOn v w f) (hset : ∀ w, i ≠ .setVol v w) :
    ∃ y, t.voices[v.toNat]? = some y ∧ y.volume = x.volume := by
  cases exec_effect h with
  | nothing | wavetable | sample | rate | master => exact ⟨x, hx, rfl⟩
  | answer => exact ⟨x, by rwa [State.answer_voices], rfl⟩
  | @voice u hu =>
    by_cases huv : v.toNat = u.toNat
    · obtain rfl := BitVec.eq_of_toNat_eq huv
      exact ⟨_, by rw [State.updateVoice_self, hx, Option.map_some], voiceEffect_volume hu hon hset s x⟩
    · exact ⟨x, by rwa [State.updateVoice_other _ huv], rfl⟩
  | @render n _ crush w =>
    obtain ⟨k, hk⟩ := rendered_voices_map n.toNat w crush s
    exact ⟨_, by rw [hk, List.getElem?_map, hx, Option.map_some], renderedVoice_volume s.ctx x k n.toNat⟩

/-- Settles O19: SET_VOL stores what GET_VOL reads, and no other command but NOTE_ON writes it. -/
theorem volumeIsIdempotent : Obligations.VolumeIsIdempotent := by
  unfold Obligations.VolumeIsIdempotent
  refine fun s v volume x hx => ⟨⟨_, rfl, exec_voice_of_some hx rfl rfl, ?read⟩,
    fun i t hon hset h => exec_volume h hx hon hset⟩
  case read =>
    obtain ⟨hlt, -⟩ := List.getElem?_eq_some_iff.mp hx
    exact congrArg _ (State.answer_of_some _ (x := { x with volume := volume }) (by simp [hlt]))

end Sys2Proof.Machine
end

section
/-! PROOFS. The registrations, the global settings and the accessors (`49_control_commands.md` R301, R310 to R318). -/

namespace Sys2Proof.Machine

/-! ## Registrations -/

theorem depthOperand_of_legal {a : Byte} (h : a = 4 ∨ a = 8 ∨ a = 16) :
    depthOperand a = some (BitVec.ofNat 5 a.toNat) := by
  obtain rfl | rfl | rfl := h <;> rfl

theorem depthOperand_of_illegal {a : Byte} (h4 : a ≠ 4) (h8 : a ≠ 8) (h16 : a ≠ 16) : depthOperand a = none := by
  rw [depthOperand, if_neg h4, if_neg h8, if_neg h16]

section
variable {s : State} {depth : Byte} {id : Half} {base size : Word}

theorem exec_regWt_of_legal {d : BitVec 5} (h : depthOperand depth = some d) : exec (.regWt depth id base size) s =
    .next { s with wreg := s.wreg.set id.toNat { valid := true, base := base, size := size, depth := d } } := by
  rw [exec, execRegWt, h]

theorem exec_regWt_of_illegal (h : depthOperand depth = none) : exec (.regWt depth id base size) s = .next s := by
  rw [exec, execRegWt, h]

theorem exec_regWt_of_ge (h : s.wreg.length ≤ id.toNat) : exec (.regWt depth id base size) s = .next s := by
  cases hd : depthOperand depth with
  | none => exact exec_regWt_of_illegal hd
  | some d => rw [exec_regWt_of_legal hd, List.set_eq_of_length_le h]

end

/-- Settles O23: a registration in range is the rewrite of one entry, and beyond the registry there is none. -/
theorem registrationResults : Obligations.RegistrationResults := by
  unfold Obligations.RegistrationResults
  refine fun s depth id base length rate root => ⟨fun _ hd => exec_regWt_of_legal (depthOperand_of_legal hd),
    fun h => h.elim exec_regWt_of_ge fun ⟨h4, h8, h16⟩ => exec_regWt_of_illegal (depthOperand_of_illegal h4 h8 h16),
    fun _ => rfl, fun hge => ?beyond⟩
  case beyond => rw [exec, execRegSmp, List.set_eq_of_length_le hge]

/-! ## Global settings -/

theorem intervalOfRate_toNat {fs : Nat} (hfs : fs < 4294967296) (rate : Word) :
    (intervalOfRate fs rate).toNat = max 1 (fs / rate.toNat) := by
  have hle := Nat.div_le_self fs rate.toNat
  exact (BitVec.toNat_ofNat ..).trans (Nat.mod_eq_of_lt (by omega))

/-- Settles O30: the interval is no greater than the sample rate, so it fits its word. -/
theorem globalSettingResults : Obligations.GlobalSettingResults := by
  unfold Obligations.GlobalSettingResults
  exact fun s hz volume hfs => ⟨fun h0 => if_pos h0, fun hne => ⟨_, intervalOfRate_toNat hfs hz, if_neg hne⟩, rfl⟩

/-! ## Accessors -/

section
variable (x : Voice)

theorem Voice.envFactor_eq : x.envFactor = x.envValue.toNat / 1048576 := Nat.shiftRight_eq_div_pow ..

theorem Voice.level_lt : x.level < 4294967296 := by
  have hfactor : x.envFactor ≤ 512 := by
    have := x.envValue.isLt
    rw [x.envFactor_eq]
    omega
  exact (Nat.mul_le_mul (gain_le x) hfactor).trans_lt (by decide)

end

/-- Settles O31: each accessor reads its voice, and every value fits the response word. -/
theorem accessorResults : Obligations.AccessorResults := by
  unfold Obligations.AccessorResults
  intro s v x gain hx hgain
  have hlevel : gain * (x.envValue.toNat / 1048576) = x.level := by
    rw [hgain, ← x.gain_eq, ← x.envFactor_eq, Voice.level]
  have hanswer (g : Voice → Word) : Host.Outcome.next (ρ := Refusal) (φ := Fault) (s.answer v g) =
      .next { s with resp := s.resp ++ [g x] } := congrArg _ (State.answer_of_some g hx)
  have hlt := x.level_lt
  rw [hlevel, ← x.envFactor_eq]
  refine ⟨hanswer _, _, _, _, _, _, ?vol, ?env, ?env8, ?lvl, ?lvl8, hanswer _, hanswer _, hanswer _, hanswer _,
    hanswer _⟩
  case vol => exact BitVec.toNat_setWidth_of_le (by decide)
  case env => exact BitVec.toNat_setWidth_of_le (by decide)
  case env8 => exact (BitVec.toNat_ofNat ..).trans (Nat.mod_eq_of_lt (by omega))
  case lvl => exact (BitVec.toNat_ofNat ..).trans (Nat.mod_eq_of_lt hlt)
  case lvl8 =>
    rw [Nat.shiftRight_eq_div_pow]
    exact (BitVec.toNat_ofNat ..).trans (Nat.mod_eq_of_lt (by omega))

end Sys2Proof.Machine
end

section
/-! PROOFS. One tracker tick (`47_arpeggio_and_instruments.md` R240, R245). -/

namespace Sys2Proof.Machine

section
variable {c : Ctx} {x : Voice} (hbound : x.trkAddr ≠ 0)
include hbound

theorem trackerTick_of_bound : trackerTick c x = trkLoad c (trkAdvance c x) := if_neg hbound

/-- In Idle, Decay and Sustain no counter moves. -/
theorem trackerTick_of_held (ha : x.envState ≠ .attack) (hr : x.envState ≠ .release) :
    trackerTick c x = trkLoad c x := by
  rw [trackerTick_of_bound hbound, trkAdvance, if_neg (not_or.mpr ⟨ha, hr⟩)]

variable (hst : x.envState = .attack ∨ x.envState = .release)
include hst

theorem trackerTick_of_counting (h : x.trkTick.toNat + 1 < stageTicks c x.trkAddr.toNat) :
    trackerTick c x = trkLoad c { x with trkTick := x.trkTick + 1 } := by
  rw [trackerTick_of_bound hbound, trkAdvance, if_pos hst, if_neg h.not_ge]

theorem trackerTick_of_stage_end (h : stageTicks c x.trkAddr.toNat ≤ x.trkTick.toNat + 1) :
    trackerTick c x = trkLoad c { x with trkTick := 0, trkStage := x.trkStage + 1 } := by
  rw [trackerTick_of_bound hbound, trkAdvance, if_pos hst, if_pos h]

end

/-- Settles O39: a tick by whether its state counts and whether the stage is over; both counters are below the limit of
their fields. -/
theorem trackerTickResult : Obligations.TrackerTickResult := by
  unfold Obligations.TrackerTickResult
  rintro c x _ rfl
  have hmax := stageTicks_le c x.trkAddr.toNat
  refine ⟨fun hfree => if_pos hfree, trackerTick_of_held, fun hbound hst hlt => ?counting,
    fun hbound hst hend hstage => ?next⟩
  case counting =>
    have hlt : x.trkTick.toNat + 1 < stageTicks c x.trkAddr.toNat := hlt
    exact ⟨_, by bv_omega, trackerTick_of_counting hbound hst hlt⟩
  case next => exact ⟨_, by bv_omega, trackerTick_of_stage_end hbound hst hend⟩

end Sys2Proof.Machine
end

section
/-! PROOFS. The loop a sample voice stays in (`43_sample_playback_oscillator.md` R170 to R173, R178). -/

namespace Sys2Proof.Machine

section
variable (x : Voice) (h : PlayHead)

/-- A turn past the loop end: onto the last sample and back in ping-pong, else onto the first (R170 to R172). -/
theorem Voice.turnAtEnd_cases :
    (x.turnAtEnd h).ended = h.ended ∧
      (x.loopMode = .pingPong ∧ (x.turnAtEnd h).pos.toNat = (x.loopEnd.toNat - 1) * 65536 ∨
        (x.turnAtEnd h).dir = h.dir ∧ (x.turnAtEnd h).pos.toNat = x.loopStart.toNat * 65536) := by
  unfold Voice.turnAtEnd
  split
  case isTrue hping => exact ⟨rfl, .inl ⟨hping, x.toNat_loopTop⟩⟩
  case isFalse => exact ⟨rfl, .inr ⟨rfl, x.toNat_loopLo⟩⟩

/-- A turn below the loop start: onto the first sample and forward in ping-pong, else onto the last. -/
theorem Voice.turnAtStart_cases :
    (x.turnAtStart h).ended = h.ended ∧
      (x.loopMode = .pingPong ∧ (x.turnAtStart h).pos.toNat = x.loopStart.toNat * 65536 ∨
        (x.turnAtStart h).dir = h.dir ∧ (x.turnAtStart h).pos.toNat = (x.loopEnd.toNat - 1) * 65536) := by
  unfold Voice.turnAtStart
  split
  case isTrue hping => exact ⟨rfl, .inl ⟨hping, x.toNat_loopLo⟩⟩
  case isFalse => exact ⟨rfl, .inr ⟨rfl, x.toNat_loopTop⟩⟩

end

/-- Settles O52: a move either stays inside the loop or turns onto its first or its last sample, and only a ping-pong
turn changes the direction. -/
theorem loopKeepsPosition : Obligations.LoopKeepsPosition := by
  unfold Obligations.LoopKeepsPosition
  intro x length sinc h hm hloop hpos _
  have hfirst : x.loopStart.toNat * 65536 ≤ (x.loopEnd.toNat - 1) * 65536 :=
    Nat.mul_le_mul_right _ (Nat.le_sub_one_of_lt hloop)
  have hlast : (x.loopEnd.toNat - 1) * 65536 < x.loopEnd.toNat * 65536 := by omega
  cases hd : h.dir with
  | forward =>
    obtain hin | hout := lt_or_ge (h.pos.toNat + sinc) (x.loopEnd.toNat * 65536)
    · obtain ⟨pos, hp, he⟩ := sampleStep_forward_inside length hm hd hin
      rw [he]
      exact ⟨hp.trans_lt hin, fun hlo => (hlo.trans (Nat.le_add_right _ sinc)).trans_eq hp.symm, nofun,
        fun hne => absurd hd hne, rfl⟩
    · rw [sampleStep_forward_end length hm hd hout]
      obtain ⟨hend, ⟨hping, hp⟩ | ⟨hdir, hp⟩⟩ := x.turnAtEnd_cases h
      · exact ⟨hp.trans_lt hlast, fun _ => hfirst.trans_eq hp.symm, nofun, fun _ => ⟨hping, fun _ => hp, nofun⟩, hend⟩
      · exact ⟨hp.trans_lt (hfirst.trans_lt hlast), fun _ => hp.ge, nofun, fun hne => absurd (hdir.trans hd) hne, hend⟩
  | backward =>
    obtain hin | hout := le_or_gt (x.loopStart.toNat * 65536 + sinc) h.pos.toNat
    · obtain ⟨pos, hp, he⟩ := sampleStep_backward_inside length hm hd hin
      have hlo := Nat.le_of_add_le_add_right (hin.trans_eq hp.symm)
      rw [he]
      exact ⟨(Nat.le.intro hp).trans_lt hpos, fun _ => hlo, fun _ => hlo, fun hne => absurd hd hne, rfl⟩
    · rw [sampleStep_backward_start length hm hd hout]
      obtain ⟨hend, ⟨hping, hp⟩ | ⟨hdir, hp⟩⟩ := x.turnAtStart_cases h
      · exact ⟨hp.trans_lt (hfirst.trans_lt hlast), fun _ => hp.ge, fun _ => hp.ge,
          fun _ => ⟨hping, nofun, fun _ => hp⟩, hend⟩
      · exact ⟨hp.trans_lt hlast, fun _ => hfirst.trans_eq hp.symm, fun _ => hfirst.trans_eq hp.symm,
          fun hne => absurd (hdir.trans hd) hne, hend⟩

end Sys2Proof.Machine
end

section
/-! PROOFS. What asserting reset keeps and what it clears (`70_reset_and_hazards.md` R361). -/

namespace Sys2Proof.Machine

section
variable (c : Config) (mem : Memory) (id : Nat)

theorem smpEntry?_resetWith : smpEntry? (State.resetWith c mem).ctx id = none :=
  smpEntry?_missing fun _ he =>
    .inl (congrArg SmpEntry.valid (SmpEntry.eq_reset_of_mem_resetWith (c := c) (mem := mem) (List.mem_of_getElem? he)))

theorem wtEntry?_resetWith : wtEntry? (State.resetWith c mem).ctx id = none :=
  wtEntry?_missing fun _ he =>
    .inl (congrArg WtEntry.valid (WtEntry.eq_reset_of_mem_resetWith (c := c) (mem := mem) (List.mem_of_getElem? he)))

end

/-- Settles O60: the reset state is made from the state's own parameters and memory, and no reset entry is valid. -/
theorem resetKeepsMemoryClearsRegistries : Obligations.ResetKeepsMemoryClearsRegistries := by
  unfold Obligations.ResetKeepsMemoryClearsRegistries
  exact fun s => ⟨rfl, rfl, resetWith_config s.mem, fun id => ⟨smpEntry?_resetWith s.config s.mem id,
    wtEntry?_resetWith s.config s.mem id⟩, rfl, rfl, rfl⟩

end Sys2Proof.Machine
end
